-- ==== Sys2Proof/Word.lean ====
section
/-! DEFINITION. The words of the machine (spec R7, R8, R20, R21): plain names for bit vectors. -/

namespace Sys2Proof

/-- One byte, the smallest addressable unit (R60). -/
abbrev Byte := BitVec 8

/-- A 16-bit word: an instruction word, a register A, B or C, a `W` operand. -/
abbrev Word := BitVec 16

/-- A 24-bit triple: the register X, a data address, a `T` operand (R21, R45). -/
abbrev Triple := BitVec 24

/-- A 32-bit value: the pair A:B (R8), and the value of a counter before it is cut to its width. -/
abbrev Pair := BitVec 32

end Sys2Proof
end

