-- ==== Sys2Proof/Config.lean ====
section
/-! DEFINITION. What an implementation fixes (the parameters of spec R6) and the free values: opaque
constants for what the spec leaves open. -/

namespace Sys2Proof

/-- Which two bytes of the 24-bit X a BYTESWAP exchanges: open (R171, D16). -/
inductive XBytes where
  | lowMid
  | lowHigh
  | midHigh
deriving DecidableEq, Repr, Inhabited

/-- `BYTESWAP_MAP` of R6: which bit of the operand's low nibble selects which register, and which
bytes of X are exchanged (R171, D16). -/
structure ByteswapMap where
  bitA : Fin 4
  bitB : Fin 4
  bitC : Fin 4
  bitX : Fin 4
  xBytes : XBytes
deriving DecidableEq, Repr, Inhabited

/-- The parameters of one implementation (R6). A state carries them (`State.cfg`) and no step changes
them, so a statement about every state is a statement about every implementation. -/
structure Params where
  /-- `PC_BITS`, 9 to 25 (R23). -/
  pcBits : Nat
  /-- `MC_BITS`, 9 to 17 (R24). -/
  mcBits : Nat
  /-- `IC_BITS`, 9 to 17 (R25). -/
  icBits : Nat
  /-- `MEM_BYTES`, at most 2^24 (R60). -/
  memBytes : Nat
  /-- `DATA_BASE`: 0 in the mixed model TINY, the start of the data area in a split model (R61). -/
  dataBase : Nat
  /-- `USER_MODE`: whether UF, AE and the access violation exist (R33). -/
  userMode : Bool
  /-- `PROTECT_LIMIT`: data addresses below it are protected in user mode (R70). -/
  protectLimit : Nat
  /-- `HAS_MUL`: MUL and MULX are present (R122, R138). -/
  hasMul : Bool
  /-- `HAS_PMEMACC`: PMEMACC is present (R396). -/
  hasPmemacc : Bool
  /-- Whether the postponed `LD.W X,[..]` is built (R239: SDog does not build it). -/
  hasLdWX : Bool
  /-- `MACRO_BASE` (R391). -/
  macroBase : Nat
  /-- `MACRO_STRIDE` (R391). -/
  macroStride : Nat
  /-- `JR_B_SIGNED`: B is sign-extended as a branch distance (R281, D11). -/
  jrBSigned : Bool
  /-- `LOOP_UPDATE_ON_EXIT`: C and X are updated when a loop exits (R308, D13). -/
  loopUpdateOnExit : Bool
  /-- `BYTESWAP_MAP` (R171, D16). -/
  byteswap : ByteswapMap
deriving DecidableEq, Repr

/-- What the spec requires of the parameters: the ranges of R6, R23, R24, R25, R60, the data area inside
the memory (R61), and the millicode entries inside MC's reach and on whole words (R391, R23). -/
def Params.wf (p : Params) : Bool :=
  decide (9 ≤ p.pcBits) && decide (p.pcBits ≤ 25) &&
  decide (9 ≤ p.mcBits) && decide (p.mcBits ≤ 17) &&
  decide (9 ≤ p.icBits) && decide (p.icBits ≤ 17) &&
  decide (p.memBytes ≤ 2 ^ 24) && decide (p.dataBase ≤ p.memBytes) &&
  decide (p.macroBase + 64 * p.macroStride ≤ 2 ^ p.mcBits) &&
  decide (p.macroBase % 2 = 0) && decide (p.macroStride % 2 = 0)

namespace Config

/-- Free value: the n-th byte drawn for a refused read (`draw_8` of R9 and R70; V4). -/
opaque drawByte : Nat → Byte

/-- Free value: the n-th bit drawn (`draw_1` of R260, V1; the old-or-link choice of R282, V2). -/
opaque drawBit : Nat → Bool

/-- Free value: what the platform answers to a port input when no answer stands ready in the state:
of the n-th drawing, on the port given (R75, V5). -/
opaque ioInput : Nat → Word → Word

/-- The CPUINFO bit string: bit of an address (R136, D33). -/
opaque cpuinfo : Nat → Bool

/-- `WORDX_COMBINE` for a 16-bit consumer: the operand made of the word WORDX read and the byte the
consumer reads at its own address (R241, D17). -/
opaque wordxOperand : Word → Byte → Word

/-- `WORDX_COMBINE` for `LD X,[..]`: the 24-bit operand (R241, R242, D17). -/
opaque wordxTriple : Word → Byte → Triple

/-- `JR_B_SIGNED` of the machine after reset: open (D11). -/
opaque jrBSigned : Bool

/-- `LOOP_UPDATE_ON_EXIT` of the machine after reset: open (D13). -/
opaque loopUpdateOnExit : Bool

/-- `BYTESWAP_MAP` of the machine after reset: open (D16). -/
opaque byteswapMap : ByteswapMap

/-- `HAS_TIMER`: fixed false by D41 (R6, R416). -/
def hasTimer : Bool := false

/-- `RESET_PC`: fixed 0 by D19 (R6, R441). -/
def resetPC : Nat := 0

/-- The parameters of the machine after reset: the defaults R6 gives (25, 17, 17, USER_MODE true), the
example limit 2048, MACRO_BASE 512 and MACRO_STRIDE 16; DESIGN CHOICE where R6 leaves the
value OPEN: 16 MB in the HALF model, MUL present (log 1). -/
def sdog : Params :=
  { pcBits := 25, mcBits := 17, icBits := 17
    memBytes := 2 ^ 24, dataBase := 2 ^ 23
    userMode := true, protectLimit := 2048
    hasMul := true, hasPmemacc := false, hasLdWX := false
    macroBase := 512, macroStride := 16
    jrBSigned := Config.jrBSigned, loopUpdateOnExit := Config.loopUpdateOnExit
    byteswap := Config.byteswapMap }

end Config

end Sys2Proof
end

