-- ==== Sys2Proof/Syntax.lean ====
section
/-! DEFINITION. The instructions as syntax: the addressing forms of spec R96 and one constructor per row of
spec/opcode_table.json. The 56 rows the table calls "(reserved)" and "(unused)" are three constructors, by the
reason of the `Unspecified` they raise. A row with a prefix (`N:`, `W:`) is a constructor of its own: its word is
that of the row without prefix, and the pending prefix selects it (R112, R201, R242). -/

namespace Sys2Proof

/-- The addressing form an operand byte g selects (R96). -/
inductive Operand where
  /-- `[m]`, g = m = 0..125: the direct form, moved by the offset. -/
  | dir (m : Fin 126)
  /-- `[X]`, g = 126. -/
  | x
  /-- `[A:B]`, g = 127 (register C in the accumulator rows, which have a constructor of their own). -/
  | ab
  /-- `[m:B]`, g = 128 + m. -/
  | mb (m : BitVec 7)
deriving DecidableEq, Repr

/-- The instructions of spec/opcode_table.json. -/
inductive Instr where
  -- OP 00 and OP 01: register, counter, system and port operations (40_op00_op01_register_ops.md)
  /-- `NOP` (R121). -/
  | nop
  /-- `MULX` (R122). -/
  | mulx
  /-- `GETPC` (R123). -/
  | getpc
  /-- `GETMC` (R124). -/
  | getmc
  /-- `SETPC` (R125). -/
  | setpc
  /-- `ADD AB,XC` (R126). -/
  | addABXC
  /-- `NIBBLE` (R127). -/
  | nibble
  /-- `SETMC` (R128). -/
  | setmc
  /-- `ADD AB,C` (R129). -/
  | addABC
  /-- `WSHL` (R130). -/
  | wshl
  /-- `CLC` (R131). -/
  | clc
  /-- `USERMODE k` (R132). -/
  | usermode (k : BitVec 1)
  /-- `OFFSET k` (R133). -/
  | offset (k : BitVec 2)
  /-- `CPUINFORST` (R134). -/
  | cpuinforst
  /-- `CPUINFOINC` (R135). -/
  | cpuinfoinc
  /-- `CPUINFOGET` (R136). -/
  | cpuinfoget
  /-- `CLEAR k` (R137). -/
  | clear (k : BitVec 4)
  /-- `MUL` (R138). -/
  | mul
  /-- `LD A,B` (R140). -/
  | ldAB
  /-- `LD B,A` (R141). -/
  | ldBA
  /-- `SWAP A,B` (R142). -/
  | swapAB
  /-- `LD C,A` (R143). -/
  | ldCA
  /-- `LD A,B C,A` (R144). -/
  | ldABCA
  /-- `LD B,A C,A` (R145). -/
  | ldBACA
  /-- `LD A,B B,A C,A` (R146). -/
  | ldABBACA
  /-- `LD A,C` (R147). -/
  | ldAC
  /-- `LD B,C` (R148). -/
  | ldBC
  /-- `LD A,C B,C` (R149). -/
  | ldACBC
  /-- `LD C,B` (R150). -/
  | ldCB
  /-- `LD A,C C,B` (R151). -/
  | ldACCB
  /-- `SWAP B,C` (R152). -/
  | swapBC
  /-- `LD A,C B,C C,B` (R153). -/
  | ldACBCCB
  /-- `INC B` (R155). -/
  | incB
  /-- `INC X` (R156). -/
  | incX
  /-- `INC B,X` (R157). -/
  | incBX
  /-- `INC B,X-` (R158). -/
  | incBXm
  /-- `DINC B` (R159). -/
  | dincB
  /-- `DINC X` (R160). -/
  | dincX
  /-- `DINC B,X` (R161). -/
  | dincBX
  /-- `DINC B,X-` (R162). -/
  | dincBXm
  /-- `DEC B` (R163). -/
  | decB
  /-- `DEC X` (R164). -/
  | decX
  /-- `DEC B,X` (R165). -/
  | decBX
  /-- `DEC B,X+` (R166). -/
  | decBXp
  /-- `DDEC B` (R167). -/
  | ddecB
  /-- `DDEC X` (R168). -/
  | ddecX
  /-- `DDEC B,X` (R169). -/
  | ddecBX
  /-- `DDEC B,X+` (R170). -/
  | ddecBXp
  /-- `BYTESWAP r` (R171). -/
  | byteswap (r : BitVec 4)
  /-- `LD X,AB` (R172). -/
  | ldXAB
  /-- `LD X,AC` (R173). -/
  | ldXAC
  /-- `INT k` (R174). -/
  | int (k : BitVec 4)
  /-- `DISABLE` (R175). -/
  | disable
  /-- `ENABLE` (R176). -/
  | enable
  /-- `GETSTAT` (R177). -/
  | getstat
  /-- `OPMSB` (R178). -/
  | opmsb
  /-- `INPUTA` (R179). -/
  | inputa
  /-- `OUTPUTB` (R180). -/
  | outputb
  /-- `INOUT` (R181). -/
  | inout
  -- OP 04 to 0F: immediates (41_immediate.md)
  /-- `NUM n` (R200). -/
  | num (n : Byte)
  /-- `AND A,n` (R202). -/
  | andAn (n : Byte)
  /-- `N:AND A,nn` (R203). -/
  | nAndAnn (n : Byte)
  /-- `XOR A,n` (R204). -/
  | xorAn (n : Byte)
  /-- `N:XOR A,nn` (R205). -/
  | nXorAnn (n : Byte)
  /-- `OR A,n` (R206). -/
  | orAn (n : Byte)
  /-- `N:OR A,nn` (R207). -/
  | nOrAnn (n : Byte)
  /-- `LD A,n` (R208). -/
  | ldAn (n : Byte)
  /-- `N:LD A,nn` (R209). -/
  | nLdAnn (n : Byte)
  /-- `LD B,n` (R210). -/
  | ldBn (n : Byte)
  /-- `N:LD B,nn` (R211). -/
  | nLdBnn (n : Byte)
  /-- `LD C,n` (R212). -/
  | ldCn (n : Byte)
  /-- `N:LD C,nn` (R213). -/
  | nLdCnn (n : Byte)
  /-- `LD X,n` (R214). -/
  | ldXn (n : Byte)
  /-- `N:LD X,nn` (R215). -/
  | nLdXnn (n : Byte)
  /-- `LD.T X,nnn` (R216). -/
  | ldT (nnn : Triple)
  /-- `ADD A,n` (R217). -/
  | addAn (n : Byte)
  /-- `N:ADD A,nn` (R218). -/
  | nAddAnn (n : Byte)
  /-- `ADDC A,n` (R219). -/
  | addcAn (n : Byte)
  /-- `N:ADDC A,nn` (R220). -/
  | nAddcAnn (n : Byte)
  -- OP 10 to 1F: loads, WORD, accumulator operations, SETFLAG, RETI, OUT (42_load_alu.md)
  /-- `LD A,[..]` (R231). -/
  | ldA (o : Operand)
  /-- `LD.W A,[..]` (R232). -/
  | ldWA (o : Operand)
  /-- `LD B,[..]` (R233). -/
  | ldB (o : Operand)
  /-- `LD.W B,[..]` (R234). -/
  | ldWB (o : Operand)
  /-- `LD C,[..]` (R235). -/
  | ldC (o : Operand)
  /-- `LD.W C,[..]` (R236). -/
  | ldWC (o : Operand)
  /-- `LD X,[..]` (R237). -/
  | ldX (o : Operand)
  /-- `W:LD X,[..]` (R238). -/
  | wLdX (o : Operand)
  /-- `LD.W X,[..]` (R239). -/
  | ldWX (o : Operand)
  /-- `WORD [..]` (R240). -/
  | word (o : Operand)
  /-- `WORDX [..]` (R241). -/
  | wordx (o : Operand)
  /-- `AND A,[..]` (R243). -/
  | andA (o : Operand)
  /-- `AND A,C` (R244). -/
  | andAC
  /-- `W:AND A,[..]` (R245). -/
  | wAndA (o : Operand)
  /-- `XOR A,[..]` (R246). -/
  | xorA (o : Operand)
  /-- `XOR A,C` (R247). -/
  | xorAC
  /-- `W:XOR A,[..]` (R248). -/
  | wXorA (o : Operand)
  /-- `OR A,[..]` (R249). -/
  | orA (o : Operand)
  /-- `OR A,C` (R250). -/
  | orAC
  /-- `W:OR A,[..]` (R251). -/
  | wOrA (o : Operand)
  /-- `SETFLAG [..]` (R252). -/
  | setflag (o : Operand)
  /-- `RETI [m]` (R253). -/
  | reti (m : Fin 126)
  /-- `ADD A,[..]` (R254). -/
  | addA (o : Operand)
  /-- `ADD A,C` (R255). -/
  | addAC
  /-- `W:ADD A,[..]` (R256). -/
  | wAddA (o : Operand)
  /-- `ADDC A,[..]` (R257). -/
  | addcA (o : Operand)
  /-- `ADDC A,C` (R258). -/
  | addcAC
  /-- `W:ADDC A,[..]` (R259). -/
  | wAddcA (o : Operand)
  /-- `OUT [..]` (R260). -/
  | out (o : Operand)
  /-- `SUB A,[..]` (R261). -/
  | subA (o : Operand)
  /-- `SUB A,C` (R262). -/
  | subAC
  /-- `W:SUB A,[..]` (R263). -/
  | wSubA (o : Operand)
  /-- `SUBC A,[..]` (R264). -/
  | subcA (o : Operand)
  /-- `SUBC A,C` (R265). -/
  | subcAC
  /-- `W:SUBC A,[..]` (R266). -/
  | wSubcA (o : Operand)
  -- OP 20 to 27: branches, jumps, links, loops (43_branch.md)
  /-- `JR n` (R284). -/
  | jrN (n : Byte)
  /-- `JR B` (R284). -/
  | jrB
  /-- `BR n` (R285). -/
  | brN (n : Byte)
  /-- `BR B` (R285). -/
  | brB
  /-- `JRC0 n` (R286). -/
  | jrc0N (n : Byte)
  /-- `JRC0 B` (R286). -/
  | jrc0B
  /-- `BRC0 n` (R287). -/
  | brc0N (n : Byte)
  /-- `BRC0 B` (R287). -/
  | brc0B
  /-- `JRC1 n` (R288). -/
  | jrc1N (n : Byte)
  /-- `JRC1 B` (R288). -/
  | jrc1B
  /-- `BRC1 n` (R289). -/
  | brc1N (n : Byte)
  /-- `BRC1 B` (R289). -/
  | brc1B
  /-- `JRZ0 n` (R290). -/
  | jrz0N (n : Byte)
  /-- `JRZ0 B` (R290). -/
  | jrz0B
  /-- `BRZ0 n` (R291). -/
  | brz0N (n : Byte)
  /-- `BRZ0 B` (R291). -/
  | brz0B
  /-- `JRZ1 n` (R292). -/
  | jrz1N (n : Byte)
  /-- `JRZ1 B` (R292). -/
  | jrz1B
  /-- `BRZ1 n` (R293). -/
  | brz1N (n : Byte)
  /-- `BRZ1 B` (R293). -/
  | brz1B
  /-- `JMP m` (R294). -/
  | jmpM (m : Fin 122)
  /-- `JMPC0 A:B` (R295). -/
  | jmpc0
  /-- `JMPC1 A:B` (R296). -/
  | jmpc1
  /-- `JMPZ0 A:B` (R297). -/
  | jmpz0
  /-- `JMPZ1 A:B` (R298). -/
  | jmpz1
  /-- `JMP A:B` (R299). -/
  | jmpAB
  /-- `JMP m:B` (R300). -/
  | jmpMB (m : BitVec 7)
  /-- `BAL m` (R301). -/
  | balM (m : Fin 122)
  /-- `BALC0 A:B` (R302). -/
  | balc0
  /-- `BALC1 A:B` (R303). -/
  | balc1
  /-- `BALZ0 A:B` (R304). -/
  | balz0
  /-- `BALZ1 A:B` (R305). -/
  | balz1
  /-- `BAL A:B` (R306). -/
  | balAB
  /-- `BAL m:B` (R307). -/
  | balMB (m : BitVec 7)
  /-- `LOOPINC n` (R308). -/
  | loopinc (n : Byte)
  /-- `LOOPINC.W n` (R308). -/
  | loopincW (n : Byte)
  /-- `LOOPDEC n` (R309). -/
  | loopdec (n : Byte)
  /-- `LOOPDEC.W n` (R309). -/
  | loopdecW (n : Byte)
  -- OP 28 to 2D: stores, GETFLAG, IN (44_store_io.md)
  /-- `ST [..],A` (R311). -/
  | stA (o : Operand)
  /-- `ST.W [..],A` (R312). -/
  | stWA (o : Operand)
  /-- `ST [..],B` (R313). -/
  | stB (o : Operand)
  /-- `ST.W [..],B` (R314). -/
  | stWB (o : Operand)
  /-- `ZERO [..]` (R315). -/
  | zero (o : Operand)
  /-- `ZERO.W [..]` (R316). -/
  | zeroW (o : Operand)
  /-- `ST [..],C` (R317). -/
  | stC (o : Operand)
  /-- `ST.W [..],C` (R318). -/
  | stWC (o : Operand)
  /-- `GETFLAG [..]` (R319). -/
  | getflag (o : Operand)
  /-- `GETFLAG AB (unusable)` (R320). -/
  | getflagW (o : Operand)
  /-- `IN [..]` (R321). -/
  | inp (o : Operand)
  /-- `IN.W [..]` (R322). -/
  | inpW (o : Operand)
  /-- `ST [..],X` (R323). -/
  | stX (o : Operand)
  /-- `ST.T [..],X` (R324). -/
  | stTX (o : Operand)
  -- OP 2E to 3F: read-modify-write on memory (45_memory_rmw.md)
  /-- `DINC [..]` (R341). -/
  | dincM (o : Operand)
  /-- `DINC.W [..]` (R342). -/
  | dincWM (o : Operand)
  /-- `DDEC [..]` (R343). -/
  | ddecM (o : Operand)
  /-- `DDEC.W [..]` (R344). -/
  | ddecWM (o : Operand)
  /-- `SHL [..]` (R345). -/
  | shl (o : Operand)
  /-- `SHL [..]W` (R346). -/
  | shlW (o : Operand)
  /-- `SHLC [..]` (R347). -/
  | shlc (o : Operand)
  /-- `SHLC [..]W` (R348). -/
  | shlcW (o : Operand)
  /-- `SHR [..]` (R349). -/
  | shr (o : Operand)
  /-- `SHR [..]W` (R350). -/
  | shrW (o : Operand)
  /-- `SHRC [..]` (R351). -/
  | shrc (o : Operand)
  /-- `SHRC [..]W` (R352). -/
  | shrcW (o : Operand)
  /-- `MOV [..]` (R353). -/
  | mov (o : Operand)
  /-- `MOV.W [..]` (R354). -/
  | movW (o : Operand)
  /-- `AND [..],A` (R355). -/
  | andM (o : Operand)
  /-- `AND.W [..],A` (R356). -/
  | andWM (o : Operand)
  /-- `XOR [..],A` (R357). -/
  | xorM (o : Operand)
  /-- `XOR.W [..],A` (R358). -/
  | xorWM (o : Operand)
  /-- `OR [..],A` (R359). -/
  | orM (o : Operand)
  /-- `OR.W [..],A` (R360). -/
  | orWM (o : Operand)
  /-- `INC [..]` (R361). -/
  | incM (o : Operand)
  /-- `INC.W [..]` (R362). -/
  | incWM (o : Operand)
  /-- `INCC [..]` (R363). -/
  | inccM (o : Operand)
  /-- `INCC.W [..]` (R364). -/
  | inccWM (o : Operand)
  /-- `ADD [..],A` (R365). -/
  | addM (o : Operand)
  /-- `ADD.W [..],A` (R366). -/
  | addWM (o : Operand)
  /-- `ADDC [..],A` (R367). -/
  | addcM (o : Operand)
  /-- `ADDC.W [..],A` (R368). -/
  | addcWM (o : Operand)
  /-- `DEC [..]` (R369). -/
  | decM (o : Operand)
  /-- `DEC [m] (CF kept)` (R371). -/
  | decKeep (m : Fin 126)
  /-- `DEC.W [..]` (R370). -/
  | decWM (o : Operand)
  /-- `DEC.W [m] (CF kept)` (R371). -/
  | decWKeep
  /-- `DECC [..]` (R372). -/
  | deccM (o : Operand)
  /-- `DECC.W [..]` (R373). -/
  | deccWM (o : Operand)
  /-- `SUB [..],A` (R374). -/
  | subM (o : Operand)
  /-- `SUB.W [..],A` (R375). -/
  | subWM (o : Operand)
  /-- `SUBC [..],A` (R376). -/
  | subcM (o : Operand)
  /-- `SUBC.W [..],A` (R377). -/
  | subcWM (o : Operand)
  -- Hard macro instructions (46_hardmacro_pmemacc.md) and the encodings without a meaning
  /-- A word with bit 14 = 1 outside millicode: hard macro number `op` with operand `g` (R390, R391). Bit 15 takes
  no part in it and is kept so that the word can be written again. -/
  | hardMacro (bit15 : Bool) (op : BitVec 6) (g : Byte)
  /-- An operand value the row of its OP code does not list (R105): "(reserved)". -/
  | reservedG (opmsb : Bool) (op : BitVec 6) (g : Byte)
  /-- An effective opmsb of 1 where the table has only an opmsb = 0 row (R107): "(reserved)". -/
  | reservedOpmsb (op : BitVec 6) (g : Byte)
  /-- An unused OP code, 02, 03, 0C, 0D or 1D (R104): "(unused)". -/
  | unusedOp (opmsb : Bool) (op : BitVec 6) (g : Byte)
deriving DecidableEq, Repr

end Sys2Proof
end

