-- ==== Sys2Proof/WellFormed.lean ====
section
/-! DEFINITION. Which instruction terms are instructions of the machine: the operand values each row of
spec/opcode_table.json lists (spec R105 and the family rules), and which words the reserved constructors stand for. -/

namespace Sys2Proof

/-- The direct forms and `[X]`: what ST B and ZERO accept (R313, R315). -/
def Operand.isDirOrX : Operand → Bool
  | .dir _ => true
  | .x => true
  | .ab => false
  | .mb _ => false

/-- The operand byte lies in the inclusive range. -/
def inRange (g : Byte) (lo hi : Nat) : Bool :=
  decide (lo ≤ g.toNat) && decide (g.toNat ≤ hi)

/-- The values of g that OP 01 does not list (R105). -/
def unlistedOp01 (g : Byte) : Bool :=
  inRange g 0x01 0x20 || g == 0x23 || g == 0x27 || inRange g 0x2C 0x2F || inRange g 0x32 0x3F ||
  inRange g 0x44 0x4F || inRange g 0x53 0x5F || inRange g 0x70 0x7F || g == 0x88 ||
  inRange g 0xB2 0xCF || inRange g 0xE3 0xEE || g == 0xF0 || inRange g 0xF4 0xFF

/-- The table of unlisted operand values (R105), for a word without a pending prefix. -/
def unlistedG (opmsb : Bool) (op : BitVec 6) (g : Byte) : Bool :=
  match op.toNat, opmsb with
  | 0x00, false => g != 0
  | 0x01, false => unlistedOp01 g
  | 0x13, false => g == 125
  | 0x19, false => inRange g 126 255
  | 0x25, _ => g == 126
  | 0x26, _ => g == 0x80
  | 0x27, _ => g == 0x80
  | 0x28, _ => g == 0 || g == 127
  | 0x29, _ => g == 127 || g == 255
  | 0x2D, _ => g == 126
  | 0x2F, false => g == 125
  | 0x2F, true => g == 124 || g == 125
  | 0x34, false => g == 126
  | 0x34, true => g == 125 || g == 126
  | 0x3C, true => g == 125
  | _, _ => false

/-- The OP codes with an opmsb = 0 row only (R107); NUM among them. -/
def onlyOpmsb0 (op : BitVec 6) : Bool :=
  op ∈ ([0x00, 0x01, 0x04, 0x05, 0x06, 0x07, 0x08, 0x09, 0x0A, 0x0E, 0x0F, 0x15, 0x16, 0x17, 0x18, 0x19,
    0x1A, 0x1B, 0x1C, 0x1E, 0x1F] : List (BitVec 6))

/-- The unused OP codes (R104). -/
def unusedCode (op : BitVec 6) : Bool :=
  op ∈ ([0x02, 0x03, 0x0C, 0x0D, 0x1D] : List (BitVec 6))

/-- An instruction with operands its row lists. -/
def Instr.wf : Instr → Bool
  | .nop => true
  | .mulx => true
  | .getpc => true
  | .getmc => true
  | .setpc => true
  | .addABXC => true
  | .nibble => true
  | .setmc => true
  | .addABC => true
  | .wshl => true
  | .clc => true
  | .usermode _ => true
  | .offset _ => true
  | .cpuinforst => true
  | .cpuinfoinc => true
  | .cpuinfoget => true
  | .clear _ => true
  | .mul => true
  | .ldAB => true
  | .ldBA => true
  | .swapAB => true
  | .ldCA => true
  | .ldABCA => true
  | .ldBACA => true
  | .ldABBACA => true
  | .ldAC => true
  | .ldBC => true
  | .ldACBC => true
  | .ldCB => true
  | .ldACCB => true
  | .swapBC => true
  | .ldACBCCB => true
  | .incB => true
  | .incX => true
  | .incBX => true
  | .incBXm => true
  | .dincB => true
  | .dincX => true
  | .dincBX => true
  | .dincBXm => true
  | .decB => true
  | .decX => true
  | .decBX => true
  | .decBXp => true
  | .ddecB => true
  | .ddecX => true
  | .ddecBX => true
  | .ddecBXp => true
  | .byteswap _ => true
  | .ldXAB => true
  | .ldXAC => true
  | .int _ => true
  | .disable => true
  | .enable => true
  | .getstat => true
  | .opmsb => true
  | .inputa => true
  | .outputb => true
  | .inout => true
  | .num _ => true
  | .andAn _ => true
  | .nAndAnn _ => true
  | .xorAn _ => true
  | .nXorAnn _ => true
  | .orAn _ => true
  | .nOrAnn _ => true
  | .ldAn _ => true
  | .nLdAnn _ => true
  | .ldBn _ => true
  | .nLdBnn _ => true
  | .ldCn _ => true
  | .nLdCnn _ => true
  | .ldXn _ => true
  | .nLdXnn _ => true
  | .ldT _ => true
  | .addAn _ => true
  | .nAddAnn _ => true
  | .addcAn _ => true
  | .nAddcAnn _ => true
  | .ldA _ => true
  | .ldWA _ => true
  | .ldB _ => true
  | .ldWB _ => true
  | .ldC _ => true
  | .ldWC _ => true
  | .ldX o => o != .dir 125
  | .wLdX o => o != .dir 125
  | .ldWX _ => true
  | .word _ => true
  | .wordx _ => true
  | .andA o => o != .ab
  | .andAC => true
  | .wAndA o => o != .ab
  | .xorA o => o != .ab
  | .xorAC => true
  | .wXorA o => o != .ab
  | .orA o => o != .ab
  | .orAC => true
  | .wOrA o => o != .ab
  | .setflag _ => true
  | .reti _ => true
  | .addA o => o != .ab
  | .addAC => true
  | .wAddA o => o != .ab
  | .addcA o => o != .ab
  | .addcAC => true
  | .wAddcA o => o != .ab
  | .out _ => true
  | .subA o => o != .ab
  | .subAC => true
  | .wSubA o => o != .ab
  | .subcA o => o != .ab
  | .subcAC => true
  | .wSubcA o => o != .ab
  | .jrN n => n != 0x80
  | .jrB => true
  | .brN n => n != 0x80
  | .brB => true
  | .jrc0N n => n != 0x80
  | .jrc0B => true
  | .brc0N n => n != 0x80
  | .brc0B => true
  | .jrc1N n => n != 0x80
  | .jrc1B => true
  | .brc1N n => n != 0x80
  | .brc1B => true
  | .jrz0N n => n != 0x80
  | .jrz0B => true
  | .brz0N n => n != 0x80
  | .brz0B => true
  | .jrz1N n => n != 0x80
  | .jrz1B => true
  | .brz1N n => n != 0x80
  | .brz1B => true
  | .jmpM _ => true
  | .jmpc0 => true
  | .jmpc1 => true
  | .jmpz0 => true
  | .jmpz1 => true
  | .jmpAB => true
  | .jmpMB _ => true
  | .balM _ => true
  | .balc0 => true
  | .balc1 => true
  | .balz0 => true
  | .balz1 => true
  | .balAB => true
  | .balMB _ => true
  | .loopinc n => n != 0x80
  | .loopincW n => n != 0x80
  | .loopdec n => n != 0x80
  | .loopdecW n => n != 0x80
  | .stA o => o != .dir 0 && o != .ab
  | .stWA o => o != .dir 0 && o != .ab
  | .stB o => o.isDirOrX
  | .stWB o => o.isDirOrX
  | .zero o => o.isDirOrX
  | .zeroW o => o.isDirOrX
  | .stC _ => true
  | .stWC _ => true
  | .getflag _ => true
  | .getflagW _ => true
  | .inp _ => true
  | .inpW _ => true
  | .stX o => o != .x
  | .stTX o => o != .x
  | .dincM _ => true
  | .dincWM _ => true
  | .ddecM o => o != .dir 125
  | .ddecWM o => o != .dir 124 && o != .dir 125
  | .shl _ => true
  | .shlW _ => true
  | .shlc _ => true
  | .shlcW _ => true
  | .shr _ => true
  | .shrW _ => true
  | .shrc _ => true
  | .shrcW _ => true
  | .mov o => o != .x
  | .movW o => o != .x && o != .dir 125
  | .andM _ => true
  | .andWM _ => true
  | .xorM _ => true
  | .xorWM _ => true
  | .orM _ => true
  | .orWM _ => true
  | .incM _ => true
  | .incWM _ => true
  | .inccM _ => true
  | .inccWM _ => true
  | .addM _ => true
  | .addWM _ => true
  | .addcM _ => true
  | .addcWM _ => true
  | .decM o => o != .dir 124 && o != .dir 125
  | .decKeep m => decide (124 ≤ m.val)
  | .decWM o => o != .dir 124 && o != .dir 125
  | .decWKeep => true
  | .deccM _ => true
  | .deccWM _ => true
  | .subM _ => true
  | .subWM _ => true
  | .subcM _ => true
  | .subcWM _ => true
  | .hardMacro _ _ _ => true
  | .reservedG e op g => unlistedG e op g
  | .reservedOpmsb op _ => onlyOpmsb0 op
  | .unusedOp _ op _ => unusedCode op

end Sys2Proof
end

