-- ==== Sys2Proof/Decode.lean ====
section
/-! DEFINITION. The decoder (spec R90 to R107), total on any bytes, and after it the encoder, written from the
same encodings. The decoder works in a context: the pending prefixes and whether millicode runs (R91, R92, R201, R242). -/

namespace Sys2Proof

/-- What the decoder must know besides the bytes: a pending OPMSB (R91), a pending NUM (R201), a pending WORD or
WORDX (R242), and whether millicode runs with no interrupt active, so that bit 14 ends a macro instead of
starting one (R92). -/
structure DecodeCtx where
  opmsb : Bool := false
  num : Bool := false
  word : Bool := false
  millicode : Bool := false
deriving DecidableEq, Repr

/-- Why the decoder gives no instruction. Every word has one, so bytes are refused only when too few. -/
inductive DecodeError where
  /-- Fewer than two bytes, or fewer than four of the two-word LD.T (R94). -/
  | tooFewBytes
deriving DecidableEq, Repr

/-- The operand byte of an addressing form (R96). -/
def Operand.toByte : Operand → Byte
  | .dir m => BitVec.ofNat 8 m.val
  | .x => 126
  | .ab => 127
  | .mb m => 1#1 ++ m

/-- The addressing form of an operand byte (R96). -/
def Operand.ofByte (g : Byte) : Operand :=
  if h : g.toNat < 126 then .dir ⟨g.toNat, h⟩
  else if g = 126 then .x
  else if g = 127 then .ab
  else .mb (g.setWidth 7)

/-- Bit 15 of an instruction word (R90). -/
def opmsbBit (w : Word) : Bool := w.getLsbD 15

/-- Bit 14 of an instruction word (R90). -/
def macroBit (w : Word) : Bool := w.getLsbD 14

/-- Bits 13:8 of an instruction word (R90). -/
def opField (w : Word) : BitVec 6 := w.extractLsb' 8 6

/-- Bits 7:0 of an instruction word (R90). -/
def gField (w : Word) : Byte := w.extractLsb' 0 8

/-- Bit 14 has its ordinary meaning here: it is clear, or it ends a macro (R92). -/
def ordinaryWord (ctx : DecodeCtx) (w : Word) : Bool := !macroBit w || ctx.millicode

/-- The effective opmsb (R91). -/
def opmsbEff (ctx : DecodeCtx) (w : Word) : Bool := opmsbBit w || ctx.opmsb

/-- The word is the first of LD.T, the one two-word instruction (R94). -/
def needsSecondWord (ctx : DecodeCtx) (w : Word) : Bool :=
  ordinaryWord ctx w && opmsbEff ctx w && opField w == 0x0B

/-- The sub-operations of OP 01, by the nibbles of g (R103); `none` for an unlisted g. -/
def decodeOp01 (g : Byte) : Option Instr :=
  let lo : BitVec 4 := g.setWidth 4
  match (g.extractLsb' 4 4).toNat with
  | 0x0 => if lo = 0 then some .mulx else none
  | 0x2 =>
    match lo.toNat with
    | 0x1 => some .getpc
    | 0x2 => some .getmc
    | 0x4 => some .setpc
    | 0x5 => some .addABXC
    | 0x6 => some .nibble
    | 0x8 => some .setmc
    | 0x9 => some .addABC
    | 0xA => some .wshl
    | 0xB => some .clc
    | _ => none
  | 0x3 => if lo.toNat < 2 then some (.usermode (lo.setWidth 1)) else none
  | 0x4 => if lo.toNat < 4 then some (.offset (lo.setWidth 2)) else none
  | 0x5 =>
    match lo.toNat with
    | 0x0 => some .cpuinforst
    | 0x1 => some .cpuinfoinc
    | 0x2 => some .cpuinfoget
    | _ => none
  | 0x6 => some (.clear lo)
  | 0x8 =>
    match lo.toNat with
    | 0x0 => some .mul
    | 0x1 => some .ldAB
    | 0x2 => some .ldBA
    | 0x3 => some .swapAB
    | 0x4 => some .ldCA
    | 0x5 => some .ldABCA
    | 0x6 => some .ldBACA
    | 0x7 => some .ldABBACA
    | 0x9 => some .ldAC
    | 0xA => some .ldBC
    | 0xB => some .ldACBC
    | 0xC => some .ldCB
    | 0xD => some .ldACCB
    | 0xE => some .swapBC
    | 0xF => some .ldACBCCB
    | _ => none
  | 0x9 =>
    match lo.toNat with
    | 0x0 => some .incB
    | 0x1 => some .incX
    | 0x2 => some .incBX
    | 0x3 => some .incBXm
    | 0x4 => some .dincB
    | 0x5 => some .dincX
    | 0x6 => some .dincBX
    | 0x7 => some .dincBXm
    | 0x8 => some .decB
    | 0x9 => some .decX
    | 0xA => some .decBX
    | 0xB => some .decBXp
    | 0xC => some .ddecB
    | 0xD => some .ddecX
    | 0xE => some .ddecBX
    | _ => some .ddecBXp
  | 0xA => some (.byteswap lo)
  | 0xB =>
    match lo.toNat with
    | 0x0 => some .ldXAB
    | 0x1 => some .ldXAC
    | _ => none
  | 0xD => some (.int lo)
  | 0xE =>
    match lo.toNat with
    | 0x0 => some .disable
    | 0x1 => some .enable
    | 0x2 => some .getstat
    | 0xF => some .opmsb
    | _ => none
  | 0xF =>
    match lo.toNat with
    | 0x1 => some .inputa
    | 0x2 => some .outputb
    | 0x3 => some .inout
    | _ => none
  | _ => none

/-- An OP code with an opmsb = 0 row only (R107). -/
def low (e : Bool) (op : BitVec 6) (g : Byte) (i : Instr) : Instr :=
  if e then .reservedOpmsb op g else i

/-- One of two variants by the effective opmsb (R91). -/
def pick (e : Bool) (i0 i1 : Instr) : Instr := if e then i1 else i0

/-- An instruction for the values of g its row lists, the reserved encoding for the others (R105). -/
def listed (ok : Bool) (e : Bool) (op : BitVec 6) (g : Byte) (i : Instr) : Instr :=
  if ok then i else .reservedG e op g

/-- The immediate rows: with a NUM pending the `N:` row (R201). -/
def immRow (ctx : DecodeCtx) (plain prefixed : Instr) : Instr := if ctx.num then prefixed else plain

/-- The accumulator rows: g = 127 is the register C row; with a WORD or WORDX pending the `W:` row (R242). -/
def accRow (ctx : DecodeCtx) (o : Operand) (byte regC word : Instr) : Instr :=
  if o = .ab then regC else if ctx.word then word else byte

/-- The relative branches: g = 80h is the register B row (R281). -/
def relRow (g : Byte) (n b : Instr) : Instr := if g = 0x80 then b else n

/-- OP 25: a word address m, the conditions on A:B, A:B, or m:B (R294 to R307); `none` for g = 126. -/
def decodeJump (e : Bool) (g : Byte) : Option Instr :=
  if h : g.toNat < 122 then some (pick e (.jmpM ⟨g.toNat, h⟩) (.balM ⟨g.toNat, h⟩))
  else
    match g.toNat with
    | 122 => some (pick e .jmpc0 .balc0)
    | 123 => some (pick e .jmpc1 .balc1)
    | 124 => some (pick e .jmpz0 .balz0)
    | 125 => some (pick e .jmpz1 .balz1)
    | 126 => none
    | 127 => some (pick e .jmpAB .balAB)
    | _ => some (pick e (.jmpMB (g.setWidth 7)) (.balMB (g.setWidth 7)))

/-- OP 29: ST B for g below 127, ZERO of g − 128 for 128 to 254 (R313 to R316); `none` for 127 and 255. -/
def decodeStoreB (e : Bool) (g : Byte) : Option Instr :=
  if g.toNat < 127 then some (pick e (.stB (.ofByte g)) (.stWB (.ofByte g)))
  else if g.toNat < 128 then none
  else if g.toNat < 255 then some (pick e (.zero (.ofByte (g - 0x80))) (.zeroW (.ofByte (g - 0x80))))
  else none

/-- OP 3C: DEC, with the rows that keep CF for the top direct addresses (R369 to R371). -/
def decodeDec (e : Bool) (o : Operand) : Instr :=
  match o with
  | .dir m =>
    if m.val < 124 then pick e (.decM o) (.decWM o)
    else if e then (if m.val = 124 then .decWKeep else .reservedG true 0x3C o.toByte)
    else .decKeep m
  | .x => pick e (.decM o) (.decWM o)
  | .ab => pick e (.decM o) (.decWM o)
  | .mb _ => pick e (.decM o) (.decWM o)

/-- The opcode map (R102): the instruction of an OP code, an effective opmsb and an operand byte. `bit15` is the
word's own bit 15: the OPMSB instruction may follow itself (R178), its word with bit 15 set is reserved (R107).
`w2` is the second word, which only LD.T has. -/
def decodeFields (ctx : DecodeCtx) (bit15 : Bool) (op : BitVec 6) (g : Byte) (w2 : Word) : Instr :=
  let e := bit15 || ctx.opmsb
  let o := Operand.ofByte g
  match op.toNat with
  | 0x00 => low e op g (listed (g == 0) e op g .nop)
  | 0x01 =>
    if e then (if !bit15 && g == 0xEF then .opmsb else .reservedOpmsb op g)
    else (decodeOp01 g).getD (.reservedG e op g)
  | 0x04 => low e op g (.num g)
  | 0x05 => low e op g (immRow ctx (.andAn g) (.nAndAnn g))
  | 0x06 => low e op g (immRow ctx (.xorAn g) (.nXorAnn g))
  | 0x07 => low e op g (immRow ctx (.orAn g) (.nOrAnn g))
  | 0x08 => low e op g (immRow ctx (.ldAn g) (.nLdAnn g))
  | 0x09 => low e op g (immRow ctx (.ldBn g) (.nLdBnn g))
  | 0x0A => low e op g (immRow ctx (.ldCn g) (.nLdCnn g))
  | 0x0B => pick e (immRow ctx (.ldXn g) (.nLdXnn g)) (.ldT (w2 ++ g))
  | 0x0E => low e op g (immRow ctx (.addAn g) (.nAddAnn g))
  | 0x0F => low e op g (immRow ctx (.addcAn g) (.nAddcAnn g))
  | 0x10 => pick e (.ldA o) (.ldWA o)
  | 0x11 => pick e (.ldB o) (.ldWB o)
  | 0x12 => pick e (.ldC o) (.ldWC o)
  | 0x13 =>
    pick e (listed (o != .dir 125) e op g (if ctx.word then .wLdX o else .ldX o)) (.ldWX o)
  | 0x14 => pick e (.word o) (.wordx o)
  | 0x15 => low e op g (accRow ctx o (.andA o) .andAC (.wAndA o))
  | 0x16 => low e op g (accRow ctx o (.xorA o) .xorAC (.wXorA o))
  | 0x17 => low e op g (accRow ctx o (.orA o) .orAC (.wOrA o))
  | 0x18 => low e op g (.setflag o)
  | 0x19 => low e op g (if h : g.toNat < 126 then .reti ⟨g.toNat, h⟩ else .reservedG e op g)
  | 0x1A => low e op g (accRow ctx o (.addA o) .addAC (.wAddA o))
  | 0x1B => low e op g (accRow ctx o (.addcA o) .addcAC (.wAddcA o))
  | 0x1C => low e op g (.out o)
  | 0x1E => low e op g (accRow ctx o (.subA o) .subAC (.wSubA o))
  | 0x1F => low e op g (accRow ctx o (.subcA o) .subcAC (.wSubcA o))
  | 0x20 => relRow g (pick e (.jrN g) (.brN g)) (pick e .jrB .brB)
  | 0x21 => relRow g (pick e (.jrc0N g) (.brc0N g)) (pick e .jrc0B .brc0B)
  | 0x22 => relRow g (pick e (.jrc1N g) (.brc1N g)) (pick e .jrc1B .brc1B)
  | 0x23 => relRow g (pick e (.jrz0N g) (.brz0N g)) (pick e .jrz0B .brz0B)
  | 0x24 => relRow g (pick e (.jrz1N g) (.brz1N g)) (pick e .jrz1B .brz1B)
  | 0x25 => (decodeJump e g).getD (.reservedG e op g)
  | 0x26 => listed (g != 0x80) e op g (pick e (.loopinc g) (.loopincW g))
  | 0x27 => listed (g != 0x80) e op g (pick e (.loopdec g) (.loopdecW g))
  | 0x28 => listed (g != 0 && g != 127) e op g (pick e (.stA o) (.stWA o))
  | 0x29 => (decodeStoreB e g).getD (.reservedG e op g)
  | 0x2A => pick e (.stC o) (.stWC o)
  | 0x2B => pick e (.getflag o) (.getflagW o)
  | 0x2C => pick e (.inp o) (.inpW o)
  | 0x2D => listed (g != 126) e op g (pick e (.stX o) (.stTX o))
  | 0x2E => pick e (.dincM o) (.dincWM o)
  | 0x2F => listed (g != 125 && !(e && g == 124)) e op g (pick e (.ddecM o) (.ddecWM o))
  | 0x30 => pick e (.shl o) (.shlW o)
  | 0x31 => pick e (.shlc o) (.shlcW o)
  | 0x32 => pick e (.shr o) (.shrW o)
  | 0x33 => pick e (.shrc o) (.shrcW o)
  | 0x34 => listed (g != 126 && !(e && g == 125)) e op g (pick e (.mov o) (.movW o))
  | 0x35 => pick e (.andM o) (.andWM o)
  | 0x36 => pick e (.xorM o) (.xorWM o)
  | 0x37 => pick e (.orM o) (.orWM o)
  | 0x38 => pick e (.incM o) (.incWM o)
  | 0x39 => pick e (.inccM o) (.inccWM o)
  | 0x3A => pick e (.addM o) (.addWM o)
  | 0x3B => pick e (.addcM o) (.addcWM o)
  | 0x3C => decodeDec e o
  | 0x3D => pick e (.deccM o) (.deccWM o)
  | 0x3E => pick e (.subM o) (.subWM o)
  | 0x3F => pick e (.subcM o) (.subcWM o)
  | _ => .unusedOp e op g

/-- The instruction of a first word and, for LD.T, a second (R92, R101 steps 3 to 5). -/
def decodeWords (ctx : DecodeCtx) (w w2 : Word) : Instr :=
  if ordinaryWord ctx w then decodeFields ctx (opmsbBit w) (opField w) (gField w) w2
  else .hardMacro (opmsbBit w) (opField w) (gField w)

/-- The decoder: the instruction that stands at the head of the bytes, and the bytes after it. The byte at the
lower address is the operand byte (R65). -/
def decode (ctx : DecodeCtx) : List Byte → Except DecodeError (Instr × List Byte)
  | b0 :: b1 :: rest =>
    if needsSecondWord ctx (b1 ++ b0) then
      match rest with
      | b2 :: b3 :: rest2 => .ok (decodeWords ctx (b1 ++ b0) (b3 ++ b2), rest2)
      | _ => .error .tooFewBytes
    else .ok (decodeWords ctx (b1 ++ b0) 0, rest)
  | _ => .error .tooFewBytes

/-- The bytes of a word as the memory holds them, low byte first (R65). -/
def wordBytes (w : Word) : List Byte := [w.setWidth 8, w.extractLsb' 8 8]

/-- The low `n` bytes of a number, least significant first. -/
def leBytes : Nat → Nat → List Byte
  | 0, _ => []
  | n + 1, v => BitVec.ofNat 8 v :: leBytes n (v / 256)

/-- The bytes of an instruction whose low `nbits` bits are `w` and whose other bits are 0, up to the four bytes of
the longest instruction (R94). -/
def tableBytes (nbits w : Nat) : List Byte := leBytes 4 (w % 2 ^ nbits)

/-- The instruction the decoder reads from the bits `w` of a row of spec/opcode_table.json, with no prefix pending
and outside millicode. -/
def decodeTableWord (nbits w : Nat) : Option Instr :=
  match decode { } (tableBytes nbits w) with
  | .ok (i, _) => some i
  | .error _ => none

/-- A word with macro = 0 (R90). -/
def instrWord (opmsb : Bool) (op : BitVec 6) (g : Byte) : Word :=
  BitVec.ofBool opmsb ++ 0#1 ++ op ++ g

/-- A word with macro = 1 (R90). -/
def macroWord (bit15 : Bool) (op : BitVec 6) (g : Byte) : Word :=
  BitVec.ofBool bit15 ++ 1#1 ++ op ++ g

/-- The words of an instruction, first word first (R90, R94, and the encoding of each instruction's rule). -/
def encode : Instr → List Word
  | .nop => [instrWord false 0x00 0x00]
  | .mulx => [instrWord false 0x01 0x00]
  | .getpc => [instrWord false 0x01 0x21]
  | .getmc => [instrWord false 0x01 0x22]
  | .setpc => [instrWord false 0x01 0x24]
  | .addABXC => [instrWord false 0x01 0x25]
  | .nibble => [instrWord false 0x01 0x26]
  | .setmc => [instrWord false 0x01 0x28]
  | .addABC => [instrWord false 0x01 0x29]
  | .wshl => [instrWord false 0x01 0x2A]
  | .clc => [instrWord false 0x01 0x2B]
  | .usermode k => [instrWord false 0x01 (0x30 + k.setWidth 8)]
  | .offset k => [instrWord false 0x01 (0x40 + k.setWidth 8)]
  | .cpuinforst => [instrWord false 0x01 0x50]
  | .cpuinfoinc => [instrWord false 0x01 0x51]
  | .cpuinfoget => [instrWord false 0x01 0x52]
  | .clear k => [instrWord false 0x01 (0x6#4 ++ k)]
  | .mul => [instrWord false 0x01 0x80]
  | .ldAB => [instrWord false 0x01 0x81]
  | .ldBA => [instrWord false 0x01 0x82]
  | .swapAB => [instrWord false 0x01 0x83]
  | .ldCA => [instrWord false 0x01 0x84]
  | .ldABCA => [instrWord false 0x01 0x85]
  | .ldBACA => [instrWord false 0x01 0x86]
  | .ldABBACA => [instrWord false 0x01 0x87]
  | .ldAC => [instrWord false 0x01 0x89]
  | .ldBC => [instrWord false 0x01 0x8A]
  | .ldACBC => [instrWord false 0x01 0x8B]
  | .ldCB => [instrWord false 0x01 0x8C]
  | .ldACCB => [instrWord false 0x01 0x8D]
  | .swapBC => [instrWord false 0x01 0x8E]
  | .ldACBCCB => [instrWord false 0x01 0x8F]
  | .incB => [instrWord false 0x01 0x90]
  | .incX => [instrWord false 0x01 0x91]
  | .incBX => [instrWord false 0x01 0x92]
  | .incBXm => [instrWord false 0x01 0x93]
  | .dincB => [instrWord false 0x01 0x94]
  | .dincX => [instrWord false 0x01 0x95]
  | .dincBX => [instrWord false 0x01 0x96]
  | .dincBXm => [instrWord false 0x01 0x97]
  | .decB => [instrWord false 0x01 0x98]
  | .decX => [instrWord false 0x01 0x99]
  | .decBX => [instrWord false 0x01 0x9A]
  | .decBXp => [instrWord false 0x01 0x9B]
  | .ddecB => [instrWord false 0x01 0x9C]
  | .ddecX => [instrWord false 0x01 0x9D]
  | .ddecBX => [instrWord false 0x01 0x9E]
  | .ddecBXp => [instrWord false 0x01 0x9F]
  | .byteswap r => [instrWord false 0x01 (0xA#4 ++ r)]
  | .ldXAB => [instrWord false 0x01 0xB0]
  | .ldXAC => [instrWord false 0x01 0xB1]
  | .int k => [instrWord false 0x01 (0xD#4 ++ k)]
  | .disable => [instrWord false 0x01 0xE0]
  | .enable => [instrWord false 0x01 0xE1]
  | .getstat => [instrWord false 0x01 0xE2]
  | .opmsb => [instrWord false 0x01 0xEF]
  | .inputa => [instrWord false 0x01 0xF1]
  | .outputb => [instrWord false 0x01 0xF2]
  | .inout => [instrWord false 0x01 0xF3]
  | .num n => [instrWord false 0x04 n]
  | .andAn n => [instrWord false 0x05 n]
  | .nAndAnn n => [instrWord false 0x05 n]
  | .xorAn n => [instrWord false 0x06 n]
  | .nXorAnn n => [instrWord false 0x06 n]
  | .orAn n => [instrWord false 0x07 n]
  | .nOrAnn n => [instrWord false 0x07 n]
  | .ldAn n => [instrWord false 0x08 n]
  | .nLdAnn n => [instrWord false 0x08 n]
  | .ldBn n => [instrWord false 0x09 n]
  | .nLdBnn n => [instrWord false 0x09 n]
  | .ldCn n => [instrWord false 0x0A n]
  | .nLdCnn n => [instrWord false 0x0A n]
  | .ldXn n => [instrWord false 0x0B n]
  | .nLdXnn n => [instrWord false 0x0B n]
  | .ldT nnn => [instrWord true 0x0B (nnn.setWidth 8), nnn.extractLsb' 8 16]
  | .addAn n => [instrWord false 0x0E n]
  | .nAddAnn n => [instrWord false 0x0E n]
  | .addcAn n => [instrWord false 0x0F n]
  | .nAddcAnn n => [instrWord false 0x0F n]
  | .ldA o => [instrWord false 0x10 o.toByte]
  | .ldWA o => [instrWord true 0x10 o.toByte]
  | .ldB o => [instrWord false 0x11 o.toByte]
  | .ldWB o => [instrWord true 0x11 o.toByte]
  | .ldC o => [instrWord false 0x12 o.toByte]
  | .ldWC o => [instrWord true 0x12 o.toByte]
  | .ldX o => [instrWord false 0x13 o.toByte]
  | .wLdX o => [instrWord false 0x13 o.toByte]
  | .ldWX o => [instrWord true 0x13 o.toByte]
  | .word o => [instrWord false 0x14 o.toByte]
  | .wordx o => [instrWord true 0x14 o.toByte]
  | .andA o => [instrWord false 0x15 o.toByte]
  | .andAC => [instrWord false 0x15 0x7F]
  | .wAndA o => [instrWord false 0x15 o.toByte]
  | .xorA o => [instrWord false 0x16 o.toByte]
  | .xorAC => [instrWord false 0x16 0x7F]
  | .wXorA o => [instrWord false 0x16 o.toByte]
  | .orA o => [instrWord false 0x17 o.toByte]
  | .orAC => [instrWord false 0x17 0x7F]
  | .wOrA o => [instrWord false 0x17 o.toByte]
  | .setflag o => [instrWord false 0x18 o.toByte]
  | .reti m => [instrWord false 0x19 (Operand.dir m).toByte]
  | .addA o => [instrWord false 0x1A o.toByte]
  | .addAC => [instrWord false 0x1A 0x7F]
  | .wAddA o => [instrWord false 0x1A o.toByte]
  | .addcA o => [instrWord false 0x1B o.toByte]
  | .addcAC => [instrWord false 0x1B 0x7F]
  | .wAddcA o => [instrWord false 0x1B o.toByte]
  | .out o => [instrWord false 0x1C o.toByte]
  | .subA o => [instrWord false 0x1E o.toByte]
  | .subAC => [instrWord false 0x1E 0x7F]
  | .wSubA o => [instrWord false 0x1E o.toByte]
  | .subcA o => [instrWord false 0x1F o.toByte]
  | .subcAC => [instrWord false 0x1F 0x7F]
  | .wSubcA o => [instrWord false 0x1F o.toByte]
  | .jrN n => [instrWord false 0x20 n]
  | .jrB => [instrWord false 0x20 0x80]
  | .brN n => [instrWord true 0x20 n]
  | .brB => [instrWord true 0x20 0x80]
  | .jrc0N n => [instrWord false 0x21 n]
  | .jrc0B => [instrWord false 0x21 0x80]
  | .brc0N n => [instrWord true 0x21 n]
  | .brc0B => [instrWord true 0x21 0x80]
  | .jrc1N n => [instrWord false 0x22 n]
  | .jrc1B => [instrWord false 0x22 0x80]
  | .brc1N n => [instrWord true 0x22 n]
  | .brc1B => [instrWord true 0x22 0x80]
  | .jrz0N n => [instrWord false 0x23 n]
  | .jrz0B => [instrWord false 0x23 0x80]
  | .brz0N n => [instrWord true 0x23 n]
  | .brz0B => [instrWord true 0x23 0x80]
  | .jrz1N n => [instrWord false 0x24 n]
  | .jrz1B => [instrWord false 0x24 0x80]
  | .brz1N n => [instrWord true 0x24 n]
  | .brz1B => [instrWord true 0x24 0x80]
  | .jmpM m => [instrWord false 0x25 (BitVec.ofNat 8 m)]
  | .jmpc0 => [instrWord false 0x25 0x7A]
  | .jmpc1 => [instrWord false 0x25 0x7B]
  | .jmpz0 => [instrWord false 0x25 0x7C]
  | .jmpz1 => [instrWord false 0x25 0x7D]
  | .jmpAB => [instrWord false 0x25 0x7F]
  | .jmpMB m => [instrWord false 0x25 (Operand.mb m).toByte]
  | .balM m => [instrWord true 0x25 (BitVec.ofNat 8 m)]
  | .balc0 => [instrWord true 0x25 0x7A]
  | .balc1 => [instrWord true 0x25 0x7B]
  | .balz0 => [instrWord true 0x25 0x7C]
  | .balz1 => [instrWord true 0x25 0x7D]
  | .balAB => [instrWord true 0x25 0x7F]
  | .balMB m => [instrWord true 0x25 (Operand.mb m).toByte]
  | .loopinc n => [instrWord false 0x26 n]
  | .loopincW n => [instrWord true 0x26 n]
  | .loopdec n => [instrWord false 0x27 n]
  | .loopdecW n => [instrWord true 0x27 n]
  | .stA o => [instrWord false 0x28 o.toByte]
  | .stWA o => [instrWord true 0x28 o.toByte]
  | .stB o => [instrWord false 0x29 o.toByte]
  | .stWB o => [instrWord true 0x29 o.toByte]
  | .zero o => [instrWord false 0x29 (o.toByte + 0x80)]
  | .zeroW o => [instrWord true 0x29 (o.toByte + 0x80)]
  | .stC o => [instrWord false 0x2A o.toByte]
  | .stWC o => [instrWord true 0x2A o.toByte]
  | .getflag o => [instrWord false 0x2B o.toByte]
  | .getflagW o => [instrWord true 0x2B o.toByte]
  | .inp o => [instrWord false 0x2C o.toByte]
  | .inpW o => [instrWord true 0x2C o.toByte]
  | .stX o => [instrWord false 0x2D o.toByte]
  | .stTX o => [instrWord true 0x2D o.toByte]
  | .dincM o => [instrWord false 0x2E o.toByte]
  | .dincWM o => [instrWord true 0x2E o.toByte]
  | .ddecM o => [instrWord false 0x2F o.toByte]
  | .ddecWM o => [instrWord true 0x2F o.toByte]
  | .shl o => [instrWord false 0x30 o.toByte]
  | .shlW o => [instrWord true 0x30 o.toByte]
  | .shlc o => [instrWord false 0x31 o.toByte]
  | .shlcW o => [instrWord true 0x31 o.toByte]
  | .shr o => [instrWord false 0x32 o.toByte]
  | .shrW o => [instrWord true 0x32 o.toByte]
  | .shrc o => [instrWord false 0x33 o.toByte]
  | .shrcW o => [instrWord true 0x33 o.toByte]
  | .mov o => [instrWord false 0x34 o.toByte]
  | .movW o => [instrWord true 0x34 o.toByte]
  | .andM o => [instrWord false 0x35 o.toByte]
  | .andWM o => [instrWord true 0x35 o.toByte]
  | .xorM o => [instrWord false 0x36 o.toByte]
  | .xorWM o => [instrWord true 0x36 o.toByte]
  | .orM o => [instrWord false 0x37 o.toByte]
  | .orWM o => [instrWord true 0x37 o.toByte]
  | .incM o => [instrWord false 0x38 o.toByte]
  | .incWM o => [instrWord true 0x38 o.toByte]
  | .inccM o => [instrWord false 0x39 o.toByte]
  | .inccWM o => [instrWord true 0x39 o.toByte]
  | .addM o => [instrWord false 0x3A o.toByte]
  | .addWM o => [instrWord true 0x3A o.toByte]
  | .addcM o => [instrWord false 0x3B o.toByte]
  | .addcWM o => [instrWord true 0x3B o.toByte]
  | .decM o => [instrWord false 0x3C o.toByte]
  | .decKeep m => [instrWord false 0x3C (Operand.dir m).toByte]
  | .decWM o => [instrWord true 0x3C o.toByte]
  | .decWKeep => [instrWord true 0x3C 0x7C]
  | .deccM o => [instrWord false 0x3D o.toByte]
  | .deccWM o => [instrWord true 0x3D o.toByte]
  | .subM o => [instrWord false 0x3E o.toByte]
  | .subWM o => [instrWord true 0x3E o.toByte]
  | .subcM o => [instrWord false 0x3F o.toByte]
  | .subcWM o => [instrWord true 0x3F o.toByte]
  | .hardMacro bit15 op g => [macroWord bit15 op g]
  | .reservedG opmsb op g => [instrWord opmsb op g]
  | .reservedOpmsb op g => [instrWord true op g]
  | .unusedOp opmsb op g => [instrWord opmsb op g]

/-- The bytes of an instruction as the memory holds them. -/
def encodeBytes (i : Instr) : List Byte := (encode i).flatMap wordBytes

/-- The context in which an instruction's words stand: after a NUM for the `N:` rows, after a WORD or WORDX for the
`W:` rows (R112). -/
def Instr.context : Instr → DecodeCtx
  | .nAndAnn _ => { num := true }
  | .nXorAnn _ => { num := true }
  | .nOrAnn _ => { num := true }
  | .nLdAnn _ => { num := true }
  | .nLdBnn _ => { num := true }
  | .nLdCnn _ => { num := true }
  | .nLdXnn _ => { num := true }
  | .nAddAnn _ => { num := true }
  | .nAddcAnn _ => { num := true }
  | .wLdX _ => { word := true }
  | .wAndA _ => { word := true }
  | .wXorA _ => { word := true }
  | .wOrA _ => { word := true }
  | .wAddA _ => { word := true }
  | .wAddcA _ => { word := true }
  | .wSubA _ => { word := true }
  | .wSubcA _ => { word := true }
  | _ => { }

end Sys2Proof
end

