-- ==== Sys2Proof/Machine/State.lean ====
section
/-! DEFINITION. The state of the machine as plain data (10_state.md), why a step may stop, and the state after reset
(R47, R440). -/

namespace Sys2Proof.Machine

/-- NUMP.n, how many NUM prefixes are pending (R39). -/
inductive NumCount where
  | zero
  | one
  | two
deriving DecidableEq, Repr

/-- WORDP.kind, which WORD prefix is pending (R40). -/
inductive WordKind where
  | none
  | word
  | wordx
deriving DecidableEq, Repr

/-- What the platform requests at one step boundary: whether it sets each external latch (R403). -/
structure Requests where
  int0 : Bool
  int1 : Bool
deriving DecidableEq, Repr

/-- One transfer on an I/O port: the port, how many bytes, and the value (R75). -/
inductive IoEvent where
  | input (port : Word) (bytes : Nat) (value : Word)
  | output (port : Word) (bytes : Nat) (value : Word)
deriving DecidableEq, Repr

/-- The physical memory: (address, byte) pairs, addresses strictly rising, no byte equal to what an unlisted
address reads as (`Memory.wf`). -/
abbrev Memory := List Host.Cell

/-- The machine's state: every piece of state of 10_state.md, then the model's own fields. -/
structure State where
  /-- A (R20). -/
  a : Word
  /-- B (R20). -/
  b : Word
  /-- C (R20). -/
  c : Word
  /-- X (R21). -/
  x : Triple
  /-- PC (R23), cut to `cfg.pcBits` bits at every write (R29). -/
  pc : BitVec 25
  /-- MC (R24), cut to `cfg.mcBits` bits at every write (R29). -/
  mc : BitVec 17
  /-- IC (R25), cut to `cfg.icBits` bits at every write (R29). -/
  ic : BitVec 17
  /-- ZF, flag bit 0 (R31). -/
  zf : Bool
  /-- MF, flag bit 1 (R32). -/
  mf : Bool
  /-- UF, flag bit 2 (R33). -/
  uf : Bool
  /-- OF1 and OF0, flag bits 4 and 3 (R34). -/
  off : BitVec 2
  /-- CF, flag bit 7 (R35). -/
  cf : Bool
  /-- AE, status bit 0 (R36). -/
  ae : Bool
  /-- TM, status bit 1 (R36, R416). -/
  tm : Bool
  /-- EF, status bit 7 (R36). -/
  ef : Bool
  /-- IF, in interrupt (R38). -/
  inInt : Bool
  /-- NUMP.n (R39). -/
  numN : NumCount
  /-- NUMP.v (R39). -/
  numV : Word
  /-- WORDP.kind (R40). -/
  wordK : WordKind
  /-- WORDP.v (R40). -/
  wordV : Word
  /-- WORDP.g (R40). -/
  wordG : Byte
  /-- OPMSBP (R41). -/
  opmsbP : Bool
  /-- PMEMP (R42). -/
  pmemP : Bool
  /-- CPUINFO_ADDR (R43). -/
  cpuinfoAddr : Nat
  /-- INT0_pend (R44). -/
  int0 : Bool
  /-- INT1_pend (R44). -/
  int1 : Bool
  /-- The physical memory (R60). -/
  mem : Memory
  /-- The model's own: what the platform requests at the coming step boundaries, one entry a step (R44, log 14). -/
  requests : List Requests
  /-- The model's own: what the platform answers to the coming port inputs (R75, log 13). -/
  inputs : List Word
  /-- The model's own: the port transfers made, newest first (R75, log 13). -/
  ioLog : List IoEvent
  /-- The model's own: how many free values have been drawn (R9, log 4). -/
  draws : Nat
  /-- The model's own: the implementation's parameters, which no step changes (R6, R46, log 1). -/
  cfg : Params
deriving DecidableEq, Repr

/-- Why the machine stops with a fault. Each is a `raise Unspecified(reason)` of the spec
(93_implementation_defined.md section 2): the hardware has no trap and does something the spec does not give, so each
is SAFE (a claim about what follows becomes unprovable). -/
inductive Fault where
  /-- An unused OP code was executed (R104). Raised by the meaning of `unusedOp`. Safe. -/
  | reservedOp
  /-- An operand value the row does not list (R105). Raised by the meaning of `reservedG`, and by the step for a
  register C row after a WORD prefix, and after a WORDX prefix (DESIGN CHOICE, log 32). Safe. -/
  | reservedG
  /-- No opmsb = 1 row (R107). Raised by the meaning of `reservedOpmsb`. Safe. -/
  | reservedOpmsb
  /-- `LD.W X,[..]` where the implementation does not build it (R239). Safe. -/
  | notImplemented
  /-- OP 2B with opmsb 1, behaviour undefined (R320). Safe. -/
  | getflagW
  /-- An option the implementation does not have: MUL, MULX, USERMODE, PMEMACC (R122, R132, R138, R396). Safe. -/
  | optionAbsent
  /-- A prefix before an instruction that cannot consume it, a third NUM, two NUMs before a 16-bit consumer, or a
  prefix as the ending instruction of a macro (R100, R200, R221, R391, R393). Raised by the step, by the meanings of NUM and of
  its consumers, and by the operation `pmemacc`. Safe. -/
  | prefixMisuse
  /-- A `W:` consumer with another operand than the WORD before it (R242). Safe. -/
  | wordOperandMismatch
  /-- A 16-bit access at an odd address or a 24-bit access not at a multiple of 4 (R66). Safe. -/
  | misaligned
  /-- A data access outside the installed memory or a fetch outside the program area (R62, R63). Safe. -/
  | noMemory
  /-- A store into the instruction word at `next` (R76). Safe. -/
  | smcAdjacent
  /-- A word with bit 14 = 1 while IF = 1 (R394). Safe. -/
  | macroInInterrupt
  /-- A hard macro entry asked for inside millicode (R394): no step asks for it, since the decoder reads bit 14 as
  the end of the macro there. Safe. -/
  | macroInMillicode
  /-- `INT k` while IF = 1 (R174, R410). Safe. -/
  | intInInterrupt
  /-- RETI while IF = 0 (R253, R412). Safe. -/
  | retiOutsideInterrupt
  /-- SETFLAG that would change MF while IF = 0 (R252). Safe. -/
  | setflagMf
  /-- The ending instruction of a macro is a taken branch, SETMC, SETFLAG or INT (R393). Safe. -/
  | macroEndInstr
deriving DecidableEq, Repr

/-- Why the machine refuses a step: no meaning in this model. -/
inductive Refusal where
  /-- An instruction the model gives no meaning, by its mnemonic; raised by exec's arm alone. Safe. -/
  | notModelled (mnemonic : String)
  /-- The decoder was given too few bytes; the step always gives it enough, so nothing reaches this. Safe. -/
  | tooFewBytes
deriving DecidableEq, Repr

/-- The outcome of a step or of an instruction. -/
abbrev Out := Host.Outcome State Fault Refusal

/-- What an operation that may fault answers: a value and the state after it. -/
abbrev Res (α : Type) := Except Fault (α × State)

/-- The machine right after reset (R47, R440): PC at RESET_PC, the modes, the latches and the prefixes clear.
DESIGN CHOICE: the registers the spec leaves unspecified hold 0 (log 2), memory lists nothing (log 3), the
parameters are those of `Config.sdog` (log 1). -/
def State.reset : State :=
  { a := 0, b := 0, c := 0, x := 0
    pc := BitVec.ofNat 25 Config.resetPC, mc := 0, ic := 0
    zf := false, mf := false, uf := false, off := 0, cf := false
    ae := false, tm := false, ef := false, inInt := false
    numN := .zero, numV := 0, wordK := .none, wordV := 0, wordG := 0, opmsbP := false, pmemP := false
    cpuinfoAddr := 0, int0 := false, int1 := false
    mem := [], requests := [], inputs := [], ioLog := [], draws := 0
    cfg := Config.sdog }

end Sys2Proof.Machine
end

