-- ==== Sys2Proof/Machine/Flags.lean ====
section
/-! DEFINITION. The flag computations (R12 to R15, R345 to R352): an arithmetic or logical result with the flags it
writes, at the width of the operation; the flag register's image and its load (R30). -/

namespace Sys2Proof.Machine

/-- A result and the flags it writes; `none` leaves a flag as it is (the flag column of the table, R10). -/
structure Alu (w : Nat) where
  val : BitVec w
  cf : Option Bool
  zf : Option Bool
deriving DecidableEq, Repr

/-- ZF of a result (R13, R14, R15). -/
def isZero {w : Nat} (v : BitVec w) : Bool := v == 0

/-- `AddC_N` with flags C Z (R13). -/
def addC {w : Nat} (u v : BitVec w) (cin : Bool) : Alu w :=
  let r := u + v + (BitVec.ofBool cin).setWidth w
  { val := r, cf := some (decide (2 ^ w ≤ u.toNat + v.toNat + cin.toNat)), zf := some (isZero r) }

/-- `SubB_N` with flags C Z: CF is the borrow (R14, D8). -/
def subB {w : Nat} (u v : BitVec w) (bin : Bool) : Alu w :=
  let r := u - v - (BitVec.ofBool bin).setWidth w
  { val := r, cf := some (decide (u.toNat < v.toNat + bin.toNat)), zf := some (isZero r) }

/-- A logical result, flags Z (R15). -/
def logic {w : Nat} (r : BitVec w) : Alu w := { val := r, cf := none, zf := some (isZero r) }

/-- Shift left, `fill` entering at bit 0, the top bit leaving to CF (R345 to R348). -/
def shiftLeft {w : Nat} (v : BitVec w) (fill : Bool) : Alu w :=
  { val := (v <<< 1) ||| (BitVec.ofBool fill).setWidth w, cf := some (v.getLsbD (w - 1)), zf := none }

/-- Shift right, `fill` entering at the top, bit 0 leaving to CF (R349 to R352). -/
def shiftRight {w : Nat} (v : BitVec w) (fill : Bool) : Alu w :=
  { val := (v >>> 1) ||| ((BitVec.ofBool fill).setWidth w <<< (w - 1)), cf := some (v.getLsbD 0), zf := none }

/-- Decrement with flags Z only, CF kept (R371). -/
def decKeepCF {w : Nat} (v : BitVec w) : Alu w := logic (v - 1)

/-- Write the flags a result names, leave the others (R10). -/
def setFlags (cf zf : Option Bool) (s : State) : State :=
  { s with cf := cf.getD s.cf, zf := zf.getD s.zf }

/-- UF as it acts and reads: without USER_MODE it does not exist and reads 0 (R33). -/
def userMode (s : State) : Bool := s.cfg.userMode && s.uf

/-- AE as it acts and reads: without USER_MODE it does not exist (R33, R406). -/
def accessError (s : State) : Bool := s.cfg.userMode && s.ae

/-- TM as it reads: 0, there is no timer (R36, R416). -/
def timerBit (s : State) : Bool := Config.hasTimer && s.tm

/-- The image of the flag register, {CF, 0, 0, OF1, OF0, UF, MF, ZF} (R30). -/
def flagImage (s : State) : Byte :=
  BitVec.ofBool s.cf ++ 0#2 ++ s.off ++ BitVec.ofBool (userMode s) ++ BitVec.ofBool s.mf ++ BitVec.ofBool s.zf

/-- The image of the status register, {EF, 0, 0, 0, 0, 0, TM, AE} (R36, R177). -/
def statusImage (s : State) : Byte :=
  BitVec.ofBool s.ef ++ 0#5 ++ BitVec.ofBool (timerBit s) ++ BitVec.ofBool (accessError s)

/-- Write UF; without USER_MODE the write is dropped (R33). -/
def setUF (v : Bool) (s : State) : State := { s with uf := if s.cfg.userMode then v else s.uf }

/-- Load the flag register from its image; bits 5 and 6 are dropped (R30, R252). -/
def loadFlags (v : Byte) (s : State) : State :=
  { s with
    zf := v.getLsbD 0, mf := v.getLsbD 1
    uf := if s.cfg.userMode then v.getLsbD 2 else s.uf
    off := v.extractLsb' 3 2, cf := v.getLsbD 7 }

end Sys2Proof.Machine
end

