-- ==== Sys2Proof/Machine/Memory.lean ====
section
/-! DEFINITION. The physical memory's own operations: what an unlisted byte reads as, reading and writing one byte,
and the canonical form (R60; log 3). -/

namespace Sys2Proof.Machine

/-- What an unlisted byte reads as. DESIGN CHOICE: the spec leaves memory after reset unspecified (R47, log 3). -/
def unlistedByte : Byte := 0

/-- The byte at a physical address. -/
def Memory.read : Memory → Nat → Byte
  | [], _ => unlistedByte
  | (q, v) :: m, p => if q = p then v else Memory.read m p

/-- Put a byte at a physical address, keeping the canonical form. -/
def Memory.write : Memory → Nat → Byte → Memory
  | [], p, v => if v = unlistedByte then [] else [(p, v)]
  | (q, u) :: m, p, v =>
    if p < q then (if v = unlistedByte then (q, u) :: m else (p, v) :: (q, u) :: m)
    else if p = q then (if v = unlistedByte then m else (p, v) :: m)
    else (q, u) :: Memory.write m p v

/-- Every listed address is at least `lo`, the addresses rise strictly, and no listed byte is what an unlisted
address reads as. -/
def Memory.wfFrom : Nat → Memory → Bool
  | _, [] => true
  | lo, (q, v) :: m => decide (lo ≤ q) && (v != unlistedByte) && Memory.wfFrom (q + 1) m

/-- The canonical form: equal memories are equal lists. -/
def Memory.wf (m : Memory) : Bool := Memory.wfFrom 0 m

/-- Every listed address lies below `n`. -/
def Memory.below (n : Nat) (m : Memory) : Bool := m.all fun cell => decide (cell.1 < n)

end Sys2Proof.Machine
end

