-- ==== Sys2Proof/Machine/Ops.lean ====
section
/-! DEFINITION. The named operations over registers, counters, memory, ports and the interrupt state, each said once:
what every instruction's meaning is built from. -/

namespace Sys2Proof.Machine

/-! ## Sequencing -/

/-- Go on with the value and the state of an operation, or keep its fault. -/
def Res.andThen {α β : Type} (r : Res α) (k : α → State → Res β) : Res β :=
  match r with
  | .error f => .error f
  | .ok (v, s) => k v s

/-- End an instruction with the value and the state of an operation, or with its fault. -/
def Res.finish {α : Type} (r : Res α) (k : α → State → State) : Out :=
  match r with
  | .error f => .fault f
  | .ok (v, s) => .next (k v s)

/-! ## Registers -/

/-- The pair A:B, A the high half (R8, D44). -/
def pairAB (s : State) : Pair := s.a ++ s.b

/-- Write the pair A:B (R8). -/
def setAB (v : Pair) (s : State) : State := { s with a := v.extractLsb' 16 16, b := v.extractLsb' 0 16 }

/-! ## Counters (R23 to R29) -/

/-- The low `bits` bits of a value, the rest zero (R29). -/
def keepLow (bits : Nat) (v : Pair) : Pair := BitVec.ofNat 32 (v.toNat % 2 ^ bits)

/-- Write PC, cut to its width (R29). -/
def setPC (v : Pair) (s : State) : State := { s with pc := (keepLow s.cfg.pcBits v).setWidth 25 }

/-- Write MC, cut to its width (R29). -/
def setMC (v : Pair) (s : State) : State := { s with mc := (keepLow s.cfg.mcBits v).setWidth 17 }

/-- Write IC, cut to its width (R29). -/
def setIC (v : Pair) (s : State) : State := { s with ic := (keepLow s.cfg.icBits v).setWidth 17 }

/-- The active counter XC: IC in an interrupt, else MC in millicode, else PC (R27, D27). While an instruction
executes it holds `next` (R28). -/
def activeCounter (s : State) : Pair :=
  if s.inInt then s.ic.setWidth 32 else if s.mf then s.mc.setWidth 32 else s.pc.setWidth 32

/-- The width of the active counter (R280). -/
def activeBits (s : State) : Nat :=
  if s.inInt then s.cfg.icBits else if s.mf then s.cfg.mcBits else s.cfg.pcBits

/-- Write the active counter (R8, R29); the other two keep their values (R26). -/
def setXC (v : Pair) (s : State) : State :=
  if s.inInt then setIC v s else if s.mf then setMC v s else setPC v s

/-- Step the active counter past `bytes` bytes of the instruction (R28). -/
def advance (bytes : Nat) (s : State) : State := setXC (activeCounter s + BitVec.ofNat 32 bytes) s

/-- The link value, the word address of the next instruction (R282). -/
def linkValue (s : State) : Pair := activeCounter s >>> 1

/-! ## Free values (R9 `draw_N`) -/

/-- A drawn byte, and the state with the drawing counted. -/
def drawByte (s : State) : Byte × State := (Config.drawByte s.draws, { s with draws := s.draws + 1 })

/-- A drawn bit, and the state with the drawing counted. -/
def drawBit (s : State) : Bool × State := (Config.drawBit s.draws, { s with draws := s.draws + 1 })

/-! ## Data addresses (R62, R63, R70, R76) -/

/-- The physical address of a data address (R62). -/
def physical (s : State) (addr : Triple) : Nat :=
  if s.pmemP then addr.toNat else s.cfg.dataBase + addr.toNat

/-- The first address past the program area (R63). -/
def programEnd (s : State) : Nat := if s.cfg.dataBase = 0 then s.cfg.memBytes else s.cfg.dataBase

/-- A physical byte holds part of the word at a program address. -/
def inWordAt (p addr : Nat) : Bool := p == addr || p == addr + 1

/-- How the decoder reads the words fetched now (R91, R92, R201, R242). -/
def decodeCtx (s : State) : DecodeCtx :=
  { opmsb := s.opmsbP, num := s.numN != .zero, word := s.wordK != .none, millicode := s.mf && !s.inInt }

/-- The 16-bit word in memory at a program address, low byte first (R65). -/
def wordAt (s : State) (addr : Nat) : Word := s.mem.read (addr + 1) ++ s.mem.read addr

/-- The address after a word of the instruction stream, with the counter's wrap (R28, R29). -/
def afterWord (s : State) (v : Pair) : Pair := keepLow (activeBits s) (v + 2)

/-- The instruction that follows the one executing is two words long (R76, R94); no prefix is pending before it,
because the instruction executing stores. -/
def nextIsTwoWords (s : State) : Bool :=
  decide ((activeCounter s).toNat + 1 < programEnd s) &&
  needsSecondWord { millicode := s.mf && !s.inInt } (wordAt s (activeCounter s).toNat)

/-- A store to this physical byte hits the instruction word at `next`, or the second word of an LD.T there (R76):
only bytes of the program area are instruction words. -/
def hitsNext (s : State) (p : Nat) : Bool :=
  decide (p < programEnd s) &&
  (inWordAt p (activeCounter s).toNat ||
    (nextIsTwoWords s && inWordAt p (afterWord s (activeCounter s)).toNat))

/-- The user-mode restriction: a restricted form on a data address below PROTECT_LIMIT while UF = 1 (R70). -/
def isProtected (s : State) (restricted : Bool) (addr : Triple) : Bool :=
  userMode s && restricted && decide (addr.toNat < s.cfg.protectLimit)

/-! ## Data memory, one byte (R9, R62, R70, R71, R76) -/

/-- Read one data byte. A refused read is not performed: AE is set and a free byte delivered (R70). -/
def readByteAt (restricted : Bool) (addr : Triple) (s : State) : Res Byte :=
  if isProtected s restricted addr then
    .ok (Config.drawByte s.draws, { s with ae := true, draws := s.draws + 1 })
  else if physical s addr < s.cfg.memBytes then .ok (s.mem.read (physical s addr), s)
  else .error .noMemory

/-- Write one data byte. A refused write is not performed and AE is set (R70); under PMEMACC a user-mode write is
dropped (R71). -/
def writeByteAt (restricted : Bool) (addr : Triple) (v : Byte) (s : State) : Res Unit :=
  if isProtected s restricted addr then .ok ((), { s with ae := true })
  else if s.pmemP && userMode s then .ok ((), s)
  else if physical s addr < s.cfg.memBytes then
    if hitsNext s (physical s addr) then .error .smcAdjacent
    else .ok ((), { s with mem := s.mem.write (physical s addr) v })
  else .error .noMemory

/-! ## Data memory, words and triples, low address first (R64, R66, R67) -/

/-- A 16-bit access at an odd address (R66). -/
def oddAddress (addr : Triple) : Bool := addr.getLsbD 0

/-- A 24-bit access not at a multiple of 4 (R66). -/
def notFour (addr : Triple) : Bool := addr.getLsbD 0 || addr.getLsbD 1

/-- Read the word at an address. -/
def readWordAt (restricted : Bool) (addr : Triple) (s : State) : Res Word :=
  if oddAddress addr then .error .misaligned
  else Res.andThen (readByteAt restricted addr s) fun lo s1 =>
    Res.andThen (readByteAt restricted (addr + 1) s1) fun hi s2 => .ok (hi ++ lo, s2)

/-- Write the word at an address. -/
def writeWordAt (restricted : Bool) (addr : Triple) (v : Word) (s : State) : Res Unit :=
  if oddAddress addr then .error .misaligned
  else Res.andThen (writeByteAt restricted addr (v.setWidth 8) s) fun _ s1 =>
    writeByteAt restricted (addr + 1) (v.extractLsb' 8 8) s1

/-- Write the triple at an address; the byte at + 3 is not written (R324). -/
def writeTripleAt (restricted : Bool) (addr : Triple) (v : Triple) (s : State) : Res Unit :=
  if notFour addr then .error .misaligned
  else Res.andThen (writeByteAt restricted addr (v.setWidth 8) s) fun _ s1 =>
    Res.andThen (writeByteAt restricted (addr + 1) (v.extractLsb' 8 8) s1) fun _ s2 =>
      writeByteAt restricted (addr + 2) (v.extractLsb' 16 8) s2

/-! ## I/O ports (R75) -/

/-- The platform's answer to the next port input: the one that stands ready, or a free value (V5, log 13). -/
def ioAnswer (port : Word) (s : State) : Word := s.inputs.headD (Config.ioInput s.draws port)

/-- Take the platform's answer from the state; a free value counts as drawn. -/
def takeAnswer (port : Word) (bytes : Nat) (v : Word) (s : State) : State :=
  { s with
    inputs := s.inputs.tail
    draws := if s.inputs.isEmpty then s.draws + 1 else s.draws
    ioLog := .input port bytes v :: s.ioLog }

/-- `IoIn(port, 2)` (R9, R75). -/
def ioInWord (port : Word) (s : State) : Word × State :=
  (ioAnswer port s, takeAnswer port 2 (ioAnswer port s) s)

/-- `IoIn(port, 1)` (R9, R75). -/
def ioInByte (port : Word) (s : State) : Byte × State :=
  ((ioAnswer port s).setWidth 8, takeAnswer port 1 (((ioAnswer port s).setWidth 8).setWidth 16) s)

/-- `IoOut(port, n, v)` (R9, R75). -/
def ioOut (port : Word) (bytes : Nat) (v : Word) (s : State) : State :=
  { s with ioLog := .output port bytes v :: s.ioLog }

/-! ## Interrupts (60_exceptions.md) -/

/-- The vector of cause k (R405). -/
def vectorOf (k : BitVec 4) : Pair := k.setWidth 32 * 2 + 32

/-- Taking an interrupt, of an ordinary cause or of INT k: IF is set and IC loaded with the vector; nothing else
changes, so PC and MC keep the address to resume at (R408, R410). -/
def enterInterrupt (k : BitVec 4) (s : State) : State := setIC (vectorOf k) { s with inInt := true }

/-- Returning from an interrupt with the flag byte read: the flags are loaded and IF cleared, so that MC or PC is
the active counter again (R253, R412). -/
def leaveInterrupt (v : Byte) (s : State) : State := { loadFlags v s with inInt := false }

/-- The platform's requests of this boundary set the latches (R403). -/
def takeRequests (s : State) : State :=
  match s.requests with
  | [] => s
  | r :: rest => { s with int0 := s.int0 || r.int0, int1 := s.int1 || r.int1, requests := rest }

/-- The first pending cause in order of priority: INT0, the access violation, INT1 (R404, R406). -/
def pendingCause (s : State) : Option (BitVec 4) :=
  if s.int0 then some 0 else if accessError s then some 1 else if s.int1 then some 15 else none

/-- A prefix is pending (R101 step 1, R407). -/
def prefixPending (s : State) : Bool :=
  s.numN != .zero || s.wordK != .none || s.opmsbP || s.pmemP

/-- The interrupt taken at this boundary, if any (R406). -/
def takenCause (s : State) : Option (BitVec 4) :=
  if s.inInt || !s.ef || prefixPending s then none else pendingCause s

end Sys2Proof.Machine
end

