-- ==== Sys2Proof/Machine/Operands.lean ====
section
/-! DEFINITION. The operand forms: the effective address (R96), the access of each width at an operand, the
immediates widened by NUM (R98), the operand of a `W:` row (R242), and branch targets (R280 to R283). -/

namespace Sys2Proof.Machine

/-! ## Memory operands -/

/-- The effective offset OFe: 0 in an interrupt (R34). -/
def offsetEff (s : State) : BitVec 2 := if s.inInt then 0 else s.off

/-- `EA(g)`, the data address of an operand (R96). -/
def ea (o : Operand) (s : State) : Triple :=
  match o with
  | .dir m => (offsetEff s).setWidth 24 * 128 + BitVec.ofNat 24 m.val
  | .x => s.x
  | .ab => s.a.setWidth 8 ++ s.b
  | .mb m => (m ++ s.b).setWidth 24

/-- The forms the user-mode restriction is about: all but the direct one (R70). -/
def restricted (o : Operand) : Bool :=
  match o with
  | .dir _ => false
  | .x => true
  | .ab => true
  | .mb _ => true

/-- `DataRead(g, 1)` (R9). -/
def readByte (o : Operand) (s : State) : Res Byte := readByteAt (restricted o) (ea o s) s

/-- `DataRead(g, 2)` (R9). -/
def readWord (o : Operand) (s : State) : Res Word := readWordAt (restricted o) (ea o s) s

/-- `DataWrite(g, 1, v)` (R9). -/
def writeByte (o : Operand) (v : Byte) (s : State) : Res Unit := writeByteAt (restricted o) (ea o s) v s

/-- `DataWrite(g, 2, v)` (R9). -/
def writeWord (o : Operand) (v : Word) (s : State) : Res Unit := writeWordAt (restricted o) (ea o s) v s

/-- `DataWrite(g, 3, v)` (R9). -/
def writeTriple (o : Operand) (v : Triple) (s : State) : Res Unit := writeTripleAt (restricted o) (ea o s) v s

/-- The register of a two-operand read-modify-write: C for `[A:B]`, else A (R340). -/
def rmwSource (o : Operand) (s : State) : Word :=
  match o with
  | .dir _ => s.a
  | .x => s.a
  | .ab => s.c
  | .mb _ => s.a

/-- Read a byte, compute, write the byte back and the flags (R340). -/
def rmwByte (o : Operand) (f : Byte → Alu 8) (s : State) : Out :=
  Res.finish (Res.andThen (readByte o s) fun v s1 =>
    Res.andThen (writeByte o (f v).val s1) fun _ s2 => .ok (f v, s2))
    fun r s3 => setFlags r.cf r.zf s3

/-- Read a word, compute, write the word back and the flags (R340). -/
def rmwWord (o : Operand) (f : Word → Alu 16) (s : State) : Out :=
  Res.finish (Res.andThen (readWord o s) fun v s1 =>
    Res.andThen (writeWord o (f v).val s1) fun _ s2 => .ok (f v, s2))
    fun r s3 => setFlags r.cf r.zf s3

/-- Write a result to A and its flags. -/
def accumulate (r : Alu 16) (s : State) : State := setFlags r.cf r.zf { s with a := r.val }

/-- An accumulator operation on a byte of memory, zero-extended (R243 and its like, R16). -/
def accByte (o : Operand) (f : Word → Alu 16) (s : State) : Out :=
  Res.finish (readByte o s) fun v s1 => accumulate (f (v.setWidth 16)) s1

/-! ## The operand of a `W:` row (R242) -/

/-- The 16-bit operand: after WORD with the same g the word it read; after WORDX the combination of the word it read
with the byte at this operand's own address (the open `WORDX_COMBINE`, log 10); with no prefix the byte. -/
def wordOperand (o : Operand) (s : State) : Res Word :=
  match s.wordK with
  | .none => Res.andThen (readByte o s) fun v s1 => .ok (v.setWidth 16, s1)
  | .word => if o.toByte = s.wordG then .ok (s.wordV, s) else .error .wordOperandMismatch
  | .wordx => Res.andThen (readByte o s) fun v s1 => .ok (Config.wordxOperand s.wordV v, s1)

/-- The 24-bit operand of `W:LD X`: the byte at `ea | 2` above the word WORD read, at an address that is a multiple
of 4 (R238); after WORDX the open combination (R242, log 10). -/
def tripleOperand (o : Operand) (s : State) : Res Triple :=
  match s.wordK with
  | .none => Res.andThen (readByte o s) fun v s1 => .ok (v.setWidth 24, s1)
  | .word =>
    if o.toByte = s.wordG then
      if notFour (ea o s) then .error .misaligned
      else Res.andThen (readByteAt (restricted o) (ea o s ||| 2) s) fun v s1 => .ok (v ++ s.wordV, s1)
    else .error .wordOperandMismatch
  | .wordx => Res.andThen (readByte o s) fun v s1 => .ok (Config.wordxTriple s.wordV v, s1)

/-- An accumulator operation on the operand of a `W:` row (R245 and its like). -/
def accWord (o : Operand) (f : Word → Alu 16) (s : State) : Out :=
  Res.finish (wordOperand o s) fun v s1 => accumulate (f v) s1

/-! ## Immediates (R98, R201) -/

/-- The immediate of a 16-bit destination: one NUM makes it 16 bits, two are misuse (R98, R221). -/
def immWord (n : Byte) (s : State) : Except Fault Word :=
  match s.numN with
  | .zero => .ok (n.setWidth 16)
  | .one => .ok (s.numV.setWidth 8 ++ n)
  | .two => .error .prefixMisuse

/-- The immediate of LD X: one NUM makes it 16 bits, two 24 (R98, R215). -/
def immTriple (n : Byte) (s : State) : Triple :=
  match s.numN with
  | .zero => n.setWidth 24
  | .one => (s.numV.setWidth 8 ++ n).setWidth 24
  | .two => s.numV ++ n

/-- An instruction on a 16-bit immediate. -/
def withImm (n : Byte) (f : Word → State → State) (s : State) : Out :=
  match immWord n s with
  | .error e => .fault e
  | .ok v => .next (f v s)

/-! ## Branches (R280 to R283) -/

/-- The target of a relative branch, before it is cut to the counter's width (R280). -/
def relTarget (n : Byte) (s : State) : Pair := activeCounter s + n.signExtend 32 * 2

/-- The target relative by register B; whether B is signed is the parameter `JR_B_SIGNED` (R281). -/
def relTargetB (s : State) : Pair :=
  activeCounter s + (if s.cfg.jrBSigned then s.b.signExtend 32 else s.b.setWidth 32) * 2

/-- The absolute target A:B × 2 (R283). -/
def absTargetAB (s : State) : Pair := pairAB s <<< 1

/-- The absolute target m:B × 2 (R283). -/
def absTargetMB (m : BitVec 7) (s : State) : Pair := (m ++ s.b).setWidth 32 <<< 1

/-- The absolute target m × 2 (R283). -/
def absTargetM (m : Fin 122) : Pair := BitVec.ofNat 32 (m.val * 2)

/-- Branch when the condition holds, else fall through (R280). -/
def jumpIf (cond : Bool) (target : Pair) (s : State) : State := if cond then setXC target s else s

/-- Link and branch; the target was computed from the old A and B (R282). -/
def linkTo (target : Pair) (s : State) : State := setXC target (setAB (linkValue s) s)

/-- Link and branch when the condition holds. When it does not, A:B keeps its value or takes the link: a free bit
chooses (R282, V2, log 7). -/
def linkIf (cond : Bool) (target : Pair) (s : State) : State :=
  if cond then linkTo target s
  else setAB (if (drawBit s).1 then linkValue s else pairAB s) (drawBit s).2

/-- LOOPINC and LOOPDEC with step `d` on X: while C ≠ 0 branch, count down and step; else fall through, updating C
and X or not as the parameter `LOOP_UPDATE_ON_EXIT` says (R308, R309). -/
def loopStep (n : Byte) (d : Triple) (s : State) : State :=
  if s.c != 0 || s.cfg.loopUpdateOnExit then
    jumpIf (s.c != 0) (relTarget n s) { s with c := s.c - 1, x := s.x + d }
  else s

end Sys2Proof.Machine
end

