-- ==== Sys2Proof/Machine/Accumulator.lean ====
section
/-! DEFINITION. Logic and arithmetic on A, of OP 15 to 1F (42_load_alu.md): 16 bits wide, logic writes Z, arithmetic C and Z (R243 to R266). -/

namespace Sys2Proof.Machine

/-! ## AND (R243 to R245) -/

/-- `AND A,[..]` (R243). -/
def execAndA (o : Operand) (s : State) : Out :=
  accByte o (fun v => logic (s.a &&& v)) s

/-- `AND A,C`, no memory access (R244). -/
def execAndAC (s : State) : Out :=
  .next (accumulate (logic (s.a &&& s.c)) s)

/-- `W:AND A,[..]` (R245). -/
def execWAndA (o : Operand) (s : State) : Out :=
  accWord o (fun v => logic (s.a &&& v)) s

/-! ## XOR (R246 to R248) -/

/-- `XOR A,[..]` (R246). -/
def execXorA (o : Operand) (s : State) : Out :=
  accByte o (fun v => logic (s.a ^^^ v)) s

/-- `XOR A,C`, no memory access (R247). -/
def execXorAC (s : State) : Out :=
  .next (accumulate (logic (s.a ^^^ s.c)) s)

/-- `W:XOR A,[..]` (R248). -/
def execWXorA (o : Operand) (s : State) : Out :=
  accWord o (fun v => logic (s.a ^^^ v)) s

/-! ## OR (R249 to R251) -/

/-- `OR A,[..]` (R249). -/
def execOrA (o : Operand) (s : State) : Out :=
  accByte o (fun v => logic (s.a ||| v)) s

/-- `OR A,C`, no memory access (R250). -/
def execOrAC (s : State) : Out :=
  .next (accumulate (logic (s.a ||| s.c)) s)

/-- `W:OR A,[..]` (R251). -/
def execWOrA (o : Operand) (s : State) : Out :=
  accWord o (fun v => logic (s.a ||| v)) s

/-! ## ADD (R254 to R256) -/

/-- `ADD A,[..]` (R254). -/
def execAddA (o : Operand) (s : State) : Out :=
  accByte o (fun v => addC s.a v false) s

/-- `ADD A,C`, no memory access (R255, C11). -/
def execAddAC (s : State) : Out :=
  .next (accumulate (addC s.a s.c false) s)

/-- `W:ADD A,[..]` (R256). -/
def execWAddA (o : Operand) (s : State) : Out :=
  accWord o (fun v => addC s.a v false) s

/-! ## ADDC (R257 to R259) -/

/-- `ADDC A,[..]` (R257). -/
def execAddcA (o : Operand) (s : State) : Out :=
  accByte o (fun v => addC s.a v s.cf) s

/-- `ADDC A,C`, no memory access (R258, C11). -/
def execAddcAC (s : State) : Out :=
  .next (accumulate (addC s.a s.c s.cf) s)

/-- `W:ADDC A,[..]` (R259). -/
def execWAddcA (o : Operand) (s : State) : Out :=
  accWord o (fun v => addC s.a v s.cf) s

/-! ## SUB (R261 to R263) -/

/-- `SUB A,[..]` (R261). -/
def execSubA (o : Operand) (s : State) : Out :=
  accByte o (fun v => subB s.a v false) s

/-- `SUB A,C`, no memory access (R262, C11). -/
def execSubAC (s : State) : Out :=
  .next (accumulate (subB s.a s.c false) s)

/-- `W:SUB A,[..]` (R263). -/
def execWSubA (o : Operand) (s : State) : Out :=
  accWord o (fun v => subB s.a v false) s

/-! ## SUBC (R264 to R266) -/

/-- `SUBC A,[..]` (R264). -/
def execSubcA (o : Operand) (s : State) : Out :=
  accByte o (fun v => subB s.a v s.cf) s

/-- `SUBC A,C`, no memory access (R265, C11). -/
def execSubcAC (s : State) : Out :=
  .next (accumulate (subB s.a s.c s.cf) s)

/-- `W:SUBC A,[..]` (R266). -/
def execWSubcA (o : Operand) (s : State) : Out :=
  accWord o (fun v => subB s.a v s.cf) s

end Sys2Proof.Machine
end

