-- ==== Sys2Proof/Machine/Branch.lean ====
section
/-! DEFINITION. Branches, jumps, links and loops, OP 20 to 27 (43_branch.md). No flag changes; "PC" is the active counter. -/

namespace Sys2Proof.Machine

/-! ## Relative branches (R284 to R293): by n, and by register B for g = 80h -/

/-- `JR n` (R284). -/
def execJrN (n : Byte) (s : State) : Out :=
  .next (setXC (relTarget n s) s)

/-- `JR B` (R284, R281). -/
def execJrB (s : State) : Out :=
  .next (setXC (relTargetB s) s)

/-- `BR n` (R285). -/
def execBrN (n : Byte) (s : State) : Out :=
  .next (linkTo (relTarget n s) s)

/-- `BR B`: the target is taken from the old B (R285, R282). -/
def execBrB (s : State) : Out :=
  .next (linkTo (relTargetB s) s)

/-- `JRC0 n` (R286). -/
def execJrc0N (n : Byte) (s : State) : Out :=
  .next (jumpIf (!s.cf) (relTarget n s) s)

/-- `JRC0 B` (R286, R281). -/
def execJrc0B (s : State) : Out :=
  .next (jumpIf (!s.cf) (relTargetB s) s)

/-- `BRC0 n` (R287). -/
def execBrc0N (n : Byte) (s : State) : Out :=
  .next (linkIf (!s.cf) (relTarget n s) s)

/-- `BRC0 B` (R287, R281). -/
def execBrc0B (s : State) : Out :=
  .next (linkIf (!s.cf) (relTargetB s) s)

/-- `JRC1 n` (R288). -/
def execJrc1N (n : Byte) (s : State) : Out :=
  .next (jumpIf s.cf (relTarget n s) s)

/-- `JRC1 B` (R288, R281). -/
def execJrc1B (s : State) : Out :=
  .next (jumpIf s.cf (relTargetB s) s)

/-- `BRC1 n` (R289). -/
def execBrc1N (n : Byte) (s : State) : Out :=
  .next (linkIf s.cf (relTarget n s) s)

/-- `BRC1 B` (R289, R281). -/
def execBrc1B (s : State) : Out :=
  .next (linkIf s.cf (relTargetB s) s)

/-- `JRZ0 n` (R290). -/
def execJrz0N (n : Byte) (s : State) : Out :=
  .next (jumpIf (!s.zf) (relTarget n s) s)

/-- `JRZ0 B` (R290, R281). -/
def execJrz0B (s : State) : Out :=
  .next (jumpIf (!s.zf) (relTargetB s) s)

/-- `BRZ0 n` (R291). -/
def execBrz0N (n : Byte) (s : State) : Out :=
  .next (linkIf (!s.zf) (relTarget n s) s)

/-- `BRZ0 B` (R291, R281). -/
def execBrz0B (s : State) : Out :=
  .next (linkIf (!s.zf) (relTargetB s) s)

/-- `JRZ1 n` (R292). -/
def execJrz1N (n : Byte) (s : State) : Out :=
  .next (jumpIf s.zf (relTarget n s) s)

/-- `JRZ1 B` (R292, R281). -/
def execJrz1B (s : State) : Out :=
  .next (jumpIf s.zf (relTargetB s) s)

/-- `BRZ1 n` (R293). -/
def execBrz1N (n : Byte) (s : State) : Out :=
  .next (linkIf s.zf (relTarget n s) s)

/-- `BRZ1 B` (R293, R281). -/
def execBrz1B (s : State) : Out :=
  .next (linkIf s.zf (relTargetB s) s)

/-! ## Absolute jumps and links (R294 to R307) -/

/-- `JMP m` (R294). -/
def execJmpM (m : Fin 122) (s : State) : Out :=
  .next (setXC (absTargetM m) s)

/-- `JMPC0 A:B` (R295). -/
def execJmpc0 (s : State) : Out :=
  .next (jumpIf (!s.cf) (absTargetAB s) s)

/-- `JMPC1 A:B` (R296). -/
def execJmpc1 (s : State) : Out :=
  .next (jumpIf s.cf (absTargetAB s) s)

/-- `JMPZ0 A:B` (R297). -/
def execJmpz0 (s : State) : Out :=
  .next (jumpIf (!s.zf) (absTargetAB s) s)

/-- `JMPZ1 A:B` (R298). -/
def execJmpz1 (s : State) : Out :=
  .next (jumpIf s.zf (absTargetAB s) s)

/-- `JMP A:B` (R299). -/
def execJmpAB (s : State) : Out :=
  .next (setXC (absTargetAB s) s)

/-- `JMP m:B` (R300). -/
def execJmpMB (m : BitVec 7) (s : State) : Out :=
  .next (setXC (absTargetMB m s) s)

/-- `BAL m` (R301). -/
def execBalM (m : Fin 122) (s : State) : Out :=
  .next (linkTo (absTargetM m) s)

/-- `BALC0 A:B` (R302). -/
def execBalc0 (s : State) : Out :=
  .next (linkIf (!s.cf) (absTargetAB s) s)

/-- `BALC1 A:B` (R303). -/
def execBalc1 (s : State) : Out :=
  .next (linkIf s.cf (absTargetAB s) s)

/-- `BALZ0 A:B` (R304). -/
def execBalz0 (s : State) : Out :=
  .next (linkIf (!s.zf) (absTargetAB s) s)

/-- `BALZ1 A:B` (R305). -/
def execBalz1 (s : State) : Out :=
  .next (linkIf s.zf (absTargetAB s) s)

/-- `BAL A:B` (R306). -/
def execBalAB (s : State) : Out :=
  .next (linkTo (absTargetAB s) s)

/-- `BAL m:B` (R307). -/
def execBalMB (m : BitVec 7) (s : State) : Out :=
  .next (linkTo (absTargetMB m s) s)

/-! ## Loops (R308, R309) -/

/-- `LOOPINC n` (R308). -/
def execLoopinc (n : Byte) (s : State) : Out :=
  .next (loopStep n 1 s)

/-- `LOOPINC.W n` (R308). -/
def execLoopincW (n : Byte) (s : State) : Out :=
  .next (loopStep n 2 s)

/-- `LOOPDEC n` (R309). -/
def execLoopdec (n : Byte) (s : State) : Out :=
  .next (loopStep n (-1) s)

/-- `LOOPDEC.W n` (R309). -/
def execLoopdecW (n : Byte) (s : State) : Out :=
  .next (loopStep n (-2) s)

end Sys2Proof.Machine
end

