-- ==== Sys2Proof/Machine/HardMacro.lean ====
section
/-! DEFINITION. Hard macro entry, PMEMACC, and the encodings without a meaning (46_hardmacro_pmemacc.md, 30_encoding.md R104 to R107). -/

namespace Sys2Proof.Machine

/-- The millicode entry of a hard macro number (R391). -/
def macroEntry (op : BitVec 6) (s : State) : Pair :=
  BitVec.ofNat 32 (op.toNat * s.cfg.macroStride + s.cfg.macroBase)

/-- Hard macro entry: the operand goes to data address 0 with the offset and to C, MC to the entry, MF is set; PC
keeps `next` (R391). In an interrupt it cannot be used (R394). In millicode bit 14 ends the macro, so no step asks for
an entry there (R393, log 22). -/
def execHardMacro (_bit15 : Bool) (op : BitVec 6) (g : Byte) (s : State) : Out :=
  if s.inInt then .fault .macroInInterrupt
  else if s.mf then .fault .macroInMillicode
  else Res.finish (writeByte (.dir 0) g s) fun _ t =>
    { setMC (macroEntry op s) t with c := g.setWidth 16, mf := true }

/-- The abstract instruction PMEMACC: the next instruction's data accesses are as in the model TINY. It has no
encoding, so no word decodes to it and exec has no arm for it (R396, D29, log 16). Like any instruction it is misuse where a
prefix is pending that it does not consume, NUM, WORD, WORDX or PMEMACC, and it ends the prefixes that are not its own
(R100, R101 step 7). That a pending OPMSB is consumed with no effect is a DESIGN CHOICE (log 16). -/
def pmemacc (s : State) : Out :=
  if s.numN != .zero || s.wordK != .none || s.pmemP then .fault .prefixMisuse
  else if s.cfg.hasPmemacc then .next { s with numN := .zero, wordK := .none, opmsbP := false, pmemP := true }
  else .fault .optionAbsent

/-- An operand value its row does not list (R105, R183). -/
def execReservedG (_e : Bool) (_op : BitVec 6) (_g : Byte) (_s : State) : Out := .fault .reservedG

/-- An effective opmsb of 1 with no such row (R107). -/
def execReservedOpmsb (_op : BitVec 6) (_g : Byte) (_s : State) : Out := .fault .reservedOpmsb

/-- An unused OP code (R104). -/
def execUnusedOp (_e : Bool) (_op : BitVec 6) (_g : Byte) (_s : State) : Out := .fault .reservedOp

end Sys2Proof.Machine
end

