-- ==== Sys2Proof/Machine/Immediate.lean ====
section
/-! DEFINITION. The immediate instructions, OP 04 to 0F (41_immediate.md). -/

namespace Sys2Proof.Machine

/-- `NUM n`: a third NUM in a row is misuse (R200). -/
def execNum (n : Byte) (s : State) : Out :=
  match s.numN with
  | .zero => .next { s with numV := s.numV.setWidth 8 ++ n, numN := .one }
  | .one => .next { s with numV := s.numV.setWidth 8 ++ n, numN := .two }
  | .two => .fault .prefixMisuse

/-! ## Logical immediates, flags Z (R202 to R207) -/

/-- `AND A,n` (R202). -/
def execAndAn (n : Byte) (s : State) : Out :=
  .next (accumulate (logic (s.a &&& n.setWidth 16)) s)

/-- `N:AND A,nn` (R203). -/
def execNAndAnn (n : Byte) (s : State) : Out :=
  withImm n (fun v t => accumulate (logic (t.a &&& v)) t) s

/-- `XOR A,n` (R204). -/
def execXorAn (n : Byte) (s : State) : Out :=
  .next (accumulate (logic (s.a ^^^ n.setWidth 16)) s)

/-- `N:XOR A,nn` (R205). -/
def execNXorAnn (n : Byte) (s : State) : Out :=
  withImm n (fun v t => accumulate (logic (t.a ^^^ v)) t) s

/-- `OR A,n` (R206). -/
def execOrAn (n : Byte) (s : State) : Out :=
  .next (accumulate (logic (s.a ||| n.setWidth 16)) s)

/-- `N:OR A,nn` (R207). -/
def execNOrAnn (n : Byte) (s : State) : Out :=
  withImm n (fun v t => accumulate (logic (t.a ||| v)) t) s

/-! ## Load immediates, no flags (R208 to R216) -/

/-- `LD A,n` (R208). -/
def execLdAn (n : Byte) (s : State) : Out :=
  .next { s with a := n.setWidth 16 }

/-- `N:LD A,nn` (R209). -/
def execNLdAnn (n : Byte) (s : State) : Out :=
  withImm n (fun v t => { t with a := v }) s

/-- `LD B,n` (R210). -/
def execLdBn (n : Byte) (s : State) : Out :=
  .next { s with b := n.setWidth 16 }

/-- `N:LD B,nn` (R211). -/
def execNLdBnn (n : Byte) (s : State) : Out :=
  withImm n (fun v t => { t with b := v }) s

/-- `LD C,n` (R212). -/
def execLdCn (n : Byte) (s : State) : Out :=
  .next { s with c := n.setWidth 16 }

/-- `N:LD C,nn` (R213). -/
def execNLdCnn (n : Byte) (s : State) : Out :=
  withImm n (fun v t => { t with c := v }) s

/-- `LD X,n` (R214). -/
def execLdXn (n : Byte) (s : State) : Out :=
  .next { s with x := n.setWidth 24 }

/-- `N:LD X,nn`, one NUM or two (R215). -/
def execNLdXnn (n : Byte) (s : State) : Out :=
  .next { s with x := immTriple n s }

/-- `LD.T X,nnn` (R216). -/
def execLdT (nnn : Triple) (s : State) : Out :=
  .next { s with x := nnn }

/-! ## Add immediates, flags C Z (R217 to R220) -/

/-- `ADD A,n` (R217). -/
def execAddAn (n : Byte) (s : State) : Out :=
  .next (accumulate (addC s.a (n.setWidth 16) false) s)

/-- `N:ADD A,nn` (R218). -/
def execNAddAnn (n : Byte) (s : State) : Out :=
  withImm n (fun v t => accumulate (addC t.a v false) t) s

/-- `ADDC A,n` (R219). -/
def execAddcAn (n : Byte) (s : State) : Out :=
  .next (accumulate (addC s.a (n.setWidth 16) s.cf) s)

/-- `N:ADDC A,nn` (R220). -/
def execNAddcAnn (n : Byte) (s : State) : Out :=
  withImm n (fun v t => accumulate (addC t.a v t.cf) t) s

end Sys2Proof.Machine
end

