-- ==== Sys2Proof/Machine/Load.lean ====
section
/-! DEFINITION. Loads, WORD, WORDX, SETFLAG, RETI and OUT, of OP 10 to 1F (42_load_alu.md). -/

namespace Sys2Proof.Machine

/-! ## Loads, no flags (R231 to R239) -/

/-- `LD A,[..]` (R231). -/
def execLdA (o : Operand) (s : State) : Out :=
  Res.finish (readByte o s) fun v t => { t with a := v.setWidth 16 }

/-- `LD.W A,[..]` (R232). -/
def execLdWA (o : Operand) (s : State) : Out :=
  Res.finish (readWord o s) fun v t => { t with a := v }

/-- `LD B,[..]` (R233). -/
def execLdB (o : Operand) (s : State) : Out :=
  Res.finish (readByte o s) fun v t => { t with b := v.setWidth 16 }

/-- `LD.W B,[..]` (R234). -/
def execLdWB (o : Operand) (s : State) : Out :=
  Res.finish (readWord o s) fun v t => { t with b := v }

/-- `LD C,[..]` (R235). -/
def execLdC (o : Operand) (s : State) : Out :=
  Res.finish (readByte o s) fun v t => { t with c := v.setWidth 16 }

/-- `LD.W C,[..]` (R236). -/
def execLdWC (o : Operand) (s : State) : Out :=
  Res.finish (readWord o s) fun v t => { t with c := v }

/-- `LD X,[..]` (R237). -/
def execLdX (o : Operand) (s : State) : Out :=
  Res.finish (readByte o s) fun v t => { t with x := v.setWidth 24 }

/-- `W:LD X,[..]` (R238, R242). -/
def execWLdX (o : Operand) (s : State) : Out :=
  Res.finish (tripleOperand o s) fun v t => { t with x := v }

/-- `LD.W X,[..]`: the defined operation where it is built, which SDog postponed (R239, log 15). -/
def execLdWX (o : Operand) (s : State) : Out :=
  if s.cfg.hasLdWX then Res.finish (readWord o s) fun v t => { t with x := v.setWidth 24 }
  else .fault .notImplemented

/-! ## WORD and WORDX (R240, R241) -/

/-- `WORD [..]` (R240). -/
def execWord (o : Operand) (s : State) : Out :=
  Res.finish (readWord o s) fun v t => { t with wordV := v, wordG := o.toByte, wordK := .word }

/-- `WORDX [..]` (R241). -/
def execWordx (o : Operand) (s : State) : Out :=
  Res.finish (readWord o s) fun v t => { t with wordV := v, wordG := o.toByte, wordK := .wordx }

/-! ## SETFLAG and RETI, flags all (R252, R253) -/

/-- `SETFLAG [..]`: outside an interrupt it may not change MF (R252, D37). -/
def execSetflag (o : Operand) (s : State) : Out :=
  match readByte o s with
  | .error f => .fault f
  | .ok (v, t) => if !s.inInt && v.getLsbD 1 != s.mf then .fault .setflagMf else .next (loadFlags v t)

/-- `RETI [m]` (R253, R412). -/
def execReti (m : Fin 126) (s : State) : Out :=
  if s.inInt then Res.finish (readByte (.dir m) s) fun v t => leaveInterrupt v t
  else .fault .retiOutsideInterrupt

/-! ## OUT (R260) -/

/-- `OUT [..]`: CF and ZF take any value, two free bits (R260, D36, log 6). -/
def execOut (o : Operand) (s : State) : Out :=
  Res.finish (readByte o s) fun v t =>
    { ioOut t.c 1 (v.setWidth 16) t with
      cf := Config.drawBit t.draws, zf := Config.drawBit (t.draws + 1), draws := t.draws + 2 }

end Sys2Proof.Machine
end

