-- ==== Sys2Proof/Machine/Registers.lean ====
section
/-! DEFINITION. The instructions of OP 00 and OP 01 (40_op00_op01_register_ops.md). XC already holds `next`. -/

namespace Sys2Proof.Machine

/-- `NOP` (R121). -/
def execNop (s : State) : Out :=
  .next s

/-- `MULX`: A × C plus the word at direct address 0, unsigned; the high half goes back there, the low half to A
(R122, D15). -/
def execMulx (s : State) : Out :=
  if s.cfg.hasMul then
    Res.finish (Res.andThen (readWord (.dir 0) s) fun m s1 =>
      Res.andThen (writeWord (.dir 0) ((s.a.setWidth 32 * s.c.setWidth 32 + m.setWidth 32).extractLsb' 16 16) s1)
        fun _ s2 => .ok (m, s2))
      fun m s3 => { s3 with a := (s.a.setWidth 32 * s.c.setWidth 32 + m.setWidth 32).extractLsb' 0 16 }
  else .fault .optionAbsent

/-- `GETPC`: the register PC as a word address, whichever counter is active (R123). -/
def execGetpc (s : State) : Out :=
  .next (setAB (s.pc.setWidth 32 >>> 1) s)

/-- `GETMC` (R124). -/
def execGetmc (s : State) : Out :=
  .next (setAB (s.mc.setWidth 32 >>> 1) s)

/-- `SETPC` (R125). -/
def execSetpc (s : State) : Out :=
  .next (setPC (pairAB s <<< 1) s)

/-- `ADD AB,XC`: XC holds `next` (R126). -/
def execAddABXC (s : State) : Out :=
  .next (setAB (pairAB s + activeCounter s >>> 1) s)

/-- `NIBBLE`: bits 3:0 and 7:4 of C (R127, D14). -/
def execNibble (s : State) : Out :=
  let lo : BitVec 4 := s.c.extractLsb' 0 4
  let hi : BitVec 4 := s.c.extractLsb' 4 4
  .next { s with a := lo.setWidth 16, b := hi.setWidth 16 }

/-- `SETMC` (R128). -/
def execSetmc (s : State) : Out :=
  .next (setMC (pairAB s <<< 1) s)

/-- `ADD AB,C`, flags unchanged (R129). -/
def execAddABC (s : State) : Out :=
  .next (setAB (pairAB s + s.c.setWidth 32) s)

/-- `WSHL` (R130). -/
def execWshl (s : State) : Out :=
  .next (setAB (pairAB s <<< 1) s)

/-- `CLC` (R131). -/
def execClc (s : State) : Out :=
  .next { s with cf := false }

/-- `USERMODE k`, not privileged (R132, D40). -/
def execUsermode (k : BitVec 1) (s : State) : Out :=
  if s.cfg.userMode then .next (setUF (k.getLsbD 0) s) else .fault .optionAbsent

/-- `OFFSET k` (R133). -/
def execOffset (k : BitVec 2) (s : State) : Out :=
  .next { s with off := k }

/-- `CPUINFORST` (R134). -/
def execCpuinforst (s : State) : Out :=
  .next { s with cpuinfoAddr := 0 }

/-- `CPUINFOINC` (R135). -/
def execCpuinfoinc (s : State) : Out :=
  .next { s with cpuinfoAddr := s.cpuinfoAddr + 16 }

/-- `CPUINFOGET`: the addressed bit is shifted into A and the address moves on (R136, D33). -/
def execCpuinfoget (s : State) : Out :=
  let rest : BitVec 15 := s.a.extractLsb' 0 15
  .next { s with
    a := rest ++ BitVec.ofBool (Config.cpuinfo s.cpuinfoAddr)
    cpuinfoAddr := s.cpuinfoAddr + 1 }

/-- `CLEAR k`: k = 1 the access error, 0 and 15 the latches, the others nothing (R137, R403, D34). -/
def execClear (k : BitVec 4) (s : State) : Out :=
  .next { s with
    int0 := if k = 0 then false else s.int0
    ae := if k = 1 then false else s.ae
    int1 := if k = 15 then false else s.int1 }

/-- `MUL`: unsigned A × C into C:A (R138, D15). -/
def execMul (s : State) : Out :=
  if s.cfg.hasMul then
    .next { s with
      c := (s.a.setWidth 32 * s.c.setWidth 32).extractLsb' 16 16
      a := (s.a.setWidth 32 * s.c.setWidth 32).extractLsb' 0 16 }
  else .fault .optionAbsent

/-! ## Register transfers: every right side is the value before the instruction (R139) -/

/-- `LD A,B` (R140). -/
def execLdAB (s : State) : Out :=
  .next { s with a := s.b }

/-- `LD B,A` (R141). -/
def execLdBA (s : State) : Out :=
  .next { s with b := s.a }

/-- `SWAP A,B` (R142). -/
def execSwapAB (s : State) : Out :=
  .next { s with a := s.b, b := s.a }

/-- `LD C,A` (R143). -/
def execLdCA (s : State) : Out :=
  .next { s with c := s.a }

/-- `LD A,B C,A` (R144). -/
def execLdABCA (s : State) : Out :=
  .next { s with a := s.b, c := s.a }

/-- `LD B,A C,A` (R145). -/
def execLdBACA (s : State) : Out :=
  .next { s with b := s.a, c := s.a }

/-- `LD A,B B,A C,A` (R146). -/
def execLdABBACA (s : State) : Out :=
  .next { s with a := s.b, b := s.a, c := s.a }

/-- `LD A,C` (R147). -/
def execLdAC (s : State) : Out :=
  .next { s with a := s.c }

/-- `LD B,C` (R148). -/
def execLdBC (s : State) : Out :=
  .next { s with b := s.c }

/-- `LD A,C B,C` (R149). -/
def execLdACBC (s : State) : Out :=
  .next { s with a := s.c, b := s.c }

/-- `LD C,B` (R150). -/
def execLdCB (s : State) : Out :=
  .next { s with c := s.b }

/-- `LD A,C C,B` (R151). -/
def execLdACCB (s : State) : Out :=
  .next { s with a := s.c, c := s.b }

/-- `SWAP B,C` (R152). -/
def execSwapBC (s : State) : Out :=
  .next { s with b := s.c, c := s.b }

/-- `LD A,C B,C C,B` (R153). -/
def execLdACBCCB (s : State) : Out :=
  .next { s with a := s.c, b := s.c, c := s.b }

/-! ## Increment and decrement of B and X: modulo 2^16 and 2^24, no flags (R154) -/

/-- `INC B` (R155). -/
def execIncB (s : State) : Out :=
  .next { s with b := s.b + 1 }

/-- `INC X` (R156). -/
def execIncX (s : State) : Out :=
  .next { s with x := s.x + 1 }

/-- `INC B,X` (R157). -/
def execIncBX (s : State) : Out :=
  .next { s with b := s.b + 1, x := s.x + 1 }

/-- `INC B,X−` (R158). -/
def execIncBXm (s : State) : Out :=
  .next { s with b := s.b + 1, x := s.x - 1 }

/-- `DINC B` (R159). -/
def execDincB (s : State) : Out :=
  .next { s with b := s.b + 2 }

/-- `DINC X` (R160). -/
def execDincX (s : State) : Out :=
  .next { s with x := s.x + 2 }

/-- `DINC B,X` (R161). -/
def execDincBX (s : State) : Out :=
  .next { s with b := s.b + 2, x := s.x + 2 }

/-- `DINC B,X−` (R162). -/
def execDincBXm (s : State) : Out :=
  .next { s with b := s.b + 2, x := s.x - 2 }

/-- `DEC B` (R163). -/
def execDecB (s : State) : Out :=
  .next { s with b := s.b - 1 }

/-- `DEC X` (R164). -/
def execDecX (s : State) : Out :=
  .next { s with x := s.x - 1 }

/-- `DEC B,X` (R165). -/
def execDecBX (s : State) : Out :=
  .next { s with b := s.b - 1, x := s.x - 1 }

/-- `DEC B,X+` (R166). -/
def execDecBXp (s : State) : Out :=
  .next { s with b := s.b - 1, x := s.x + 1 }

/-- `DDEC B` (R167). -/
def execDdecB (s : State) : Out :=
  .next { s with b := s.b - 2 }

/-- `DDEC X` (R168). -/
def execDdecX (s : State) : Out :=
  .next { s with x := s.x - 2 }

/-- `DDEC B,X` (R169). -/
def execDdecBX (s : State) : Out :=
  .next { s with b := s.b - 2, x := s.x - 2 }

/-- `DDEC B,X+` (R170). -/
def execDdecBXp (s : State) : Out :=
  .next { s with b := s.b - 2, x := s.x + 2 }

/-! ## Byte swap, LD X, interrupts, status, prefix OPMSB -/

/-- A 16-bit register with its two bytes exchanged (R171). -/
def swapBytes (v : Word) : Word := v.setWidth 8 ++ v.extractLsb' 8 8

/-- X with the two bytes that the open `BYTESWAP_MAP` names exchanged (R171, D16). -/
def swapTriple (m : XBytes) (v : Triple) : Triple :=
  let lo : Byte := v.extractLsb' 0 8
  let mid : Byte := v.extractLsb' 8 8
  let hi : Byte := v.extractLsb' 16 8
  match m with
  | .lowMid => hi ++ lo ++ mid
  | .lowHigh => lo ++ mid ++ hi
  | .midHigh => mid ++ hi ++ lo

/-- `BYTESWAP r`: which bit selects which register is the open parameter `BYTESWAP_MAP` (R171, D16, log 9). -/
def execByteswap (r : BitVec 4) (s : State) : Out :=
  .next { s with
    a := if r.getLsbD s.cfg.byteswap.bitA.val then swapBytes s.a else s.a
    b := if r.getLsbD s.cfg.byteswap.bitB.val then swapBytes s.b else s.b
    c := if r.getLsbD s.cfg.byteswap.bitC.val then swapBytes s.c else s.c
    x := if r.getLsbD s.cfg.byteswap.bitX.val then swapTriple s.cfg.byteswap.xBytes s.x else s.x }

/-- `LD X,AB` (R172). -/
def execLdXAB (s : State) : Out :=
  .next { s with x := s.a.setWidth 8 ++ s.b }

/-- `LD X,AC` (R173). -/
def execLdXAC (s : State) : Out :=
  .next { s with x := s.a.setWidth 8 ++ s.c }

/-- `INT k`: takes the interrupt whatever EF is; PC or MC keeps `next` (R174, R410). -/
def execInt (k : BitVec 4) (s : State) : Out :=
  if s.inInt then .fault .intInInterrupt else .next (enterInterrupt k s)

/-- `DISABLE` (R175). -/
def execDisable (s : State) : Out :=
  .next { s with ef := false }

/-- `ENABLE` (R176). -/
def execEnable (s : State) : Out :=
  .next { s with ef := true }

/-- `GETSTAT` (R177, D26). -/
def execGetstat (s : State) : Out :=
  .next { s with a := (statusImage s).setWidth 16 }

/-- `OPMSB` (R178). -/
def execOpmsb (s : State) : Out :=
  .next { s with opmsbP := true }

/-! ## Port transfers of registers (R75, D25) -/

/-- `INPUTA` (R179). -/
def execInputa (s : State) : Out :=
  .next { (ioInWord s.c s).2 with a := (ioInWord s.c s).1 }

/-- `OUTPUTB` (R180). -/
def execOutputb (s : State) : Out :=
  .next (ioOut s.c 2 s.b s)

/-- `INOUT`: the output first, then the input, on one port (R181). -/
def execInout (s : State) : Out :=
  let s1 := ioOut s.c 2 s.b s
  .next { (ioInWord s.c s1).2 with a := (ioInWord s.c s1).1 }

end Sys2Proof.Machine
end

