-- ==== Sys2Proof/Machine/Rmw.lean ====
section
/-! DEFINITION. Read-modify-write on memory, OP 2E to 3F (45_memory_rmw.md): flags at the operand width, no register changes. -/

namespace Sys2Proof.Machine

/-! ## Step by two (R341 to R344) -/

/-- `DINC [..]` (R341). -/
def execDincM (o : Operand) (s : State) : Out :=
  rmwByte o (fun v => addC v 2 false) s

/-- `DINC.W [..]` (R342). -/
def execDincWM (o : Operand) (s : State) : Out :=
  rmwWord o (fun v => addC v 2 false) s

/-- `DDEC [..]` (R343). -/
def execDdecM (o : Operand) (s : State) : Out :=
  rmwByte o (fun v => subB v 2 false) s

/-- `DDEC.W [..]` (R344). -/
def execDdecWM (o : Operand) (s : State) : Out :=
  rmwWord o (fun v => subB v 2 false) s

/-! ## Shifts, flags C (R345 to R352) -/

/-- `SHL [..]` (R345). -/
def execShl (o : Operand) (s : State) : Out :=
  rmwByte o (fun v => shiftLeft v false) s

/-- `SHL [..]W` (R346). -/
def execShlW (o : Operand) (s : State) : Out :=
  rmwWord o (fun v => shiftLeft v false) s

/-- `SHLC [..]` (R347). -/
def execShlc (o : Operand) (s : State) : Out :=
  rmwByte o (fun v => shiftLeft v s.cf) s

/-- `SHLC [..]W` (R348). -/
def execShlcW (o : Operand) (s : State) : Out :=
  rmwWord o (fun v => shiftLeft v s.cf) s

/-- `SHR [..]` (R349). -/
def execShr (o : Operand) (s : State) : Out :=
  rmwByte o (fun v => shiftRight v false) s

/-- `SHR [..]W` (R350). -/
def execShrW (o : Operand) (s : State) : Out :=
  rmwWord o (fun v => shiftRight v false) s

/-- `SHRC [..]` (R351). -/
def execShrc (o : Operand) (s : State) : Out :=
  rmwByte o (fun v => shiftRight v s.cf) s

/-- `SHRC [..]W` (R352). -/
def execShrcW (o : Operand) (s : State) : Out :=
  rmwWord o (fun v => shiftRight v s.cf) s

/-! ## MOV to [X], no flags (R353, R354) -/

/-- `MOV [..]` (R353). -/
def execMov (o : Operand) (s : State) : Out :=
  Res.finish (Res.andThen (readByte o s) fun v t => writeByte .x v t) fun _ t => t

/-- `MOV.W [..]` (R354). -/
def execMovW (o : Operand) (s : State) : Out :=
  Res.finish (Res.andThen (readWord o s) fun v t => writeWord .x v t) fun _ t => t

/-! ## Logic with A (C for [A:B]), flags Z (R355 to R360) -/

/-- `AND [..],A` (R355). -/
def execAndM (o : Operand) (s : State) : Out :=
  rmwByte o (fun v => logic (v &&& ((rmwSource o s).setWidth 8))) s

/-- `AND.W [..],A` (R356). -/
def execAndWM (o : Operand) (s : State) : Out :=
  rmwWord o (fun v => logic (v &&& (rmwSource o s))) s

/-- `XOR [..],A` (R357). -/
def execXorM (o : Operand) (s : State) : Out :=
  rmwByte o (fun v => logic (v ^^^ ((rmwSource o s).setWidth 8))) s

/-- `XOR.W [..],A` (R358). -/
def execXorWM (o : Operand) (s : State) : Out :=
  rmwWord o (fun v => logic (v ^^^ (rmwSource o s))) s

/-- `OR [..],A` (R359). -/
def execOrM (o : Operand) (s : State) : Out :=
  rmwByte o (fun v => logic (v ||| ((rmwSource o s).setWidth 8))) s

/-- `OR.W [..],A` (R360). -/
def execOrWM (o : Operand) (s : State) : Out :=
  rmwWord o (fun v => logic (v ||| (rmwSource o s))) s

/-! ## Increment and add, flags C Z (R361 to R368) -/

/-- `INC [..]` (R361). -/
def execIncM (o : Operand) (s : State) : Out :=
  rmwByte o (fun v => addC v 1 false) s

/-- `INC.W [..]` (R362). -/
def execIncWM (o : Operand) (s : State) : Out :=
  rmwWord o (fun v => addC v 1 false) s

/-- `INCC [..]` (R363). -/
def execInccM (o : Operand) (s : State) : Out :=
  rmwByte o (fun v => addC v 0 s.cf) s

/-- `INCC.W [..]` (R364). -/
def execInccWM (o : Operand) (s : State) : Out :=
  rmwWord o (fun v => addC v 0 s.cf) s

/-- `ADD [..],A` (R365). -/
def execAddM (o : Operand) (s : State) : Out :=
  rmwByte o (fun v => addC v ((rmwSource o s).setWidth 8) false) s

/-- `ADD.W [..],A` (R366). -/
def execAddWM (o : Operand) (s : State) : Out :=
  rmwWord o (fun v => addC v (rmwSource o s) false) s

/-- `ADDC [..],A` (R367). -/
def execAddcM (o : Operand) (s : State) : Out :=
  rmwByte o (fun v => addC v ((rmwSource o s).setWidth 8) s.cf) s

/-- `ADDC.W [..],A` (R368). -/
def execAddcWM (o : Operand) (s : State) : Out :=
  rmwWord o (fun v => addC v (rmwSource o s) s.cf) s

/-! ## Decrement and subtract, flags C Z but for the CF-keeping rows (R369 to R377) -/

/-- `DEC [..]` (R369). -/
def execDecM (o : Operand) (s : State) : Out :=
  rmwByte o (fun v => subB v 1 false) s

/-- `DEC.W [..]` (R370). -/
def execDecWM (o : Operand) (s : State) : Out :=
  rmwWord o (fun v => subB v 1 false) s

/-- `DEC [m]` with m = 124, 125: CF kept (R371). -/
def execDecKeep (m : Fin 126) (s : State) : Out :=
  rmwByte (.dir m) (fun v => decKeepCF v) s

/-- `DEC.W [124]`: CF kept (R371). -/
def execDecWKeep (s : State) : Out :=
  rmwWord (.dir 124) (fun v => decKeepCF v) s

/-- `DECC [..]` (R372). -/
def execDeccM (o : Operand) (s : State) : Out :=
  rmwByte o (fun v => subB v 0 s.cf) s

/-- `DECC.W [..]` (R373). -/
def execDeccWM (o : Operand) (s : State) : Out :=
  rmwWord o (fun v => subB v 0 s.cf) s

/-- `SUB [..],A` (R374). -/
def execSubM (o : Operand) (s : State) : Out :=
  rmwByte o (fun v => subB v ((rmwSource o s).setWidth 8) false) s

/-- `SUB.W [..],A` (R375). -/
def execSubWM (o : Operand) (s : State) : Out :=
  rmwWord o (fun v => subB v (rmwSource o s) false) s

/-- `SUBC [..],A` (R376). -/
def execSubcM (o : Operand) (s : State) : Out :=
  rmwByte o (fun v => subB v ((rmwSource o s).setWidth 8) s.cf) s

/-- `SUBC.W [..],A` (R377). -/
def execSubcWM (o : Operand) (s : State) : Out :=
  rmwWord o (fun v => subB v (rmwSource o s) s.cf) s

end Sys2Proof.Machine
end

