-- ==== Sys2Proof/Machine/Store.lean ====
section
/-! DEFINITION. Stores, ZERO, GETFLAG and IN, OP 28 to 2D (44_store_io.md). No register and no flag changes. -/

namespace Sys2Proof.Machine

/-- `ST [..],A` (R311). -/
def execStA (o : Operand) (s : State) : Out :=
  Res.finish (writeByte o (s.a.setWidth 8) s) fun _ t => t

/-- `ST.W [..],A` (R312). -/
def execStWA (o : Operand) (s : State) : Out :=
  Res.finish (writeWord o s.a s) fun _ t => t

/-- `ST [..],B` (R313). -/
def execStB (o : Operand) (s : State) : Out :=
  Res.finish (writeByte o (s.b.setWidth 8) s) fun _ t => t

/-- `ST.W [..],B` (R314). -/
def execStWB (o : Operand) (s : State) : Out :=
  Res.finish (writeWord o s.b s) fun _ t => t

/-- `ZERO [..]`: the operand is that of g − 128 (R315). -/
def execZero (o : Operand) (s : State) : Out :=
  Res.finish (writeByte o 0 s) fun _ t => t

/-- `ZERO.W [..]` (R316). -/
def execZeroW (o : Operand) (s : State) : Out :=
  Res.finish (writeWord o 0 s) fun _ t => t

/-- `ST [..],C` (R317). -/
def execStC (o : Operand) (s : State) : Out :=
  Res.finish (writeByte o (s.c.setWidth 8) s) fun _ t => t

/-- `ST.W [..],C` (R318). -/
def execStWC (o : Operand) (s : State) : Out :=
  Res.finish (writeWord o s.c s) fun _ t => t

/-- `GETFLAG [..]` (R319, C1). -/
def execGetflag (o : Operand) (s : State) : Out :=
  Res.finish (writeByte o (flagImage s) s) fun _ t => t

/-- OP 2B with opmsb 1, "使用不可、動作不定": the spec gives it no effect (R320). -/
def execGetflagW (_o : Operand) (_s : State) : Out := .fault .getflagW

/-- `IN [..]`: the input happens even if the write is then refused (R321). -/
def execInp (o : Operand) (s : State) : Out :=
  Res.finish (writeByte o (ioInByte s.c s).1 (ioInByte s.c s).2) fun _ t => t

/-- `IN.W [..]`, one 16-bit input (R322). -/
def execInpW (o : Operand) (s : State) : Out :=
  Res.finish (writeWord o (ioInWord s.c s).1 (ioInWord s.c s).2) fun _ t => t

/-- `ST [..],X` (R323). -/
def execStX (o : Operand) (s : State) : Out :=
  Res.finish (writeByte o (s.x.setWidth 8) s) fun _ t => t

/-- `ST.T [..],X` (R324). -/
def execStTX (o : Operand) (s : State) : Out :=
  Res.finish (writeTriple o s.x s) fun _ t => t

end Sys2Proof.Machine
end

