-- ==== Sys2Proof/Machine/Dispatch.lean ====
section
/-! DEFINITION. Which meaning each instruction has: one arm per constructor of Instr. -/

namespace Sys2Proof.Machine

def exec (i : Instr) (s : State) : Host.Outcome State Fault Refusal :=
  match i with
  | .nop => Sys2Proof.Machine.execNop s
  | .mulx => Sys2Proof.Machine.execMulx s
  | .getpc => Sys2Proof.Machine.execGetpc s
  | .getmc => Sys2Proof.Machine.execGetmc s
  | .setpc => Sys2Proof.Machine.execSetpc s
  | .addABXC => Sys2Proof.Machine.execAddABXC s
  | .nibble => Sys2Proof.Machine.execNibble s
  | .setmc => Sys2Proof.Machine.execSetmc s
  | .addABC => Sys2Proof.Machine.execAddABC s
  | .wshl => Sys2Proof.Machine.execWshl s
  | .clc => Sys2Proof.Machine.execClc s
  | .usermode k => Sys2Proof.Machine.execUsermode k s
  | .offset k => Sys2Proof.Machine.execOffset k s
  | .cpuinforst => Sys2Proof.Machine.execCpuinforst s
  | .cpuinfoinc => Sys2Proof.Machine.execCpuinfoinc s
  | .cpuinfoget => Sys2Proof.Machine.execCpuinfoget s
  | .clear k => Sys2Proof.Machine.execClear k s
  | .mul => Sys2Proof.Machine.execMul s
  | .ldAB => Sys2Proof.Machine.execLdAB s
  | .ldBA => Sys2Proof.Machine.execLdBA s
  | .swapAB => Sys2Proof.Machine.execSwapAB s
  | .ldCA => Sys2Proof.Machine.execLdCA s
  | .ldABCA => Sys2Proof.Machine.execLdABCA s
  | .ldBACA => Sys2Proof.Machine.execLdBACA s
  | .ldABBACA => Sys2Proof.Machine.execLdABBACA s
  | .ldAC => Sys2Proof.Machine.execLdAC s
  | .ldBC => Sys2Proof.Machine.execLdBC s
  | .ldACBC => Sys2Proof.Machine.execLdACBC s
  | .ldCB => Sys2Proof.Machine.execLdCB s
  | .ldACCB => Sys2Proof.Machine.execLdACCB s
  | .swapBC => Sys2Proof.Machine.execSwapBC s
  | .ldACBCCB => Sys2Proof.Machine.execLdACBCCB s
  | .incB => Sys2Proof.Machine.execIncB s
  | .incX => Sys2Proof.Machine.execIncX s
  | .incBX => Sys2Proof.Machine.execIncBX s
  | .incBXm => Sys2Proof.Machine.execIncBXm s
  | .dincB => Sys2Proof.Machine.execDincB s
  | .dincX => Sys2Proof.Machine.execDincX s
  | .dincBX => Sys2Proof.Machine.execDincBX s
  | .dincBXm => Sys2Proof.Machine.execDincBXm s
  | .decB => Sys2Proof.Machine.execDecB s
  | .decX => Sys2Proof.Machine.execDecX s
  | .decBX => Sys2Proof.Machine.execDecBX s
  | .decBXp => Sys2Proof.Machine.execDecBXp s
  | .ddecB => Sys2Proof.Machine.execDdecB s
  | .ddecX => Sys2Proof.Machine.execDdecX s
  | .ddecBX => Sys2Proof.Machine.execDdecBX s
  | .ddecBXp => Sys2Proof.Machine.execDdecBXp s
  | .byteswap r => Sys2Proof.Machine.execByteswap r s
  | .ldXAB => Sys2Proof.Machine.execLdXAB s
  | .ldXAC => Sys2Proof.Machine.execLdXAC s
  | .int k => Sys2Proof.Machine.execInt k s
  | .disable => Sys2Proof.Machine.execDisable s
  | .enable => Sys2Proof.Machine.execEnable s
  | .getstat => Sys2Proof.Machine.execGetstat s
  | .opmsb => Sys2Proof.Machine.execOpmsb s
  | .inputa => Sys2Proof.Machine.execInputa s
  | .outputb => Sys2Proof.Machine.execOutputb s
  | .inout => Sys2Proof.Machine.execInout s
  | .num n => Sys2Proof.Machine.execNum n s
  | .andAn n => Sys2Proof.Machine.execAndAn n s
  | .nAndAnn n => Sys2Proof.Machine.execNAndAnn n s
  | .xorAn n => Sys2Proof.Machine.execXorAn n s
  | .nXorAnn n => Sys2Proof.Machine.execNXorAnn n s
  | .orAn n => Sys2Proof.Machine.execOrAn n s
  | .nOrAnn n => Sys2Proof.Machine.execNOrAnn n s
  | .ldAn n => Sys2Proof.Machine.execLdAn n s
  | .nLdAnn n => Sys2Proof.Machine.execNLdAnn n s
  | .ldBn n => Sys2Proof.Machine.execLdBn n s
  | .nLdBnn n => Sys2Proof.Machine.execNLdBnn n s
  | .ldCn n => Sys2Proof.Machine.execLdCn n s
  | .nLdCnn n => Sys2Proof.Machine.execNLdCnn n s
  | .ldXn n => Sys2Proof.Machine.execLdXn n s
  | .nLdXnn n => Sys2Proof.Machine.execNLdXnn n s
  | .ldT nnn => Sys2Proof.Machine.execLdT nnn s
  | .addAn n => Sys2Proof.Machine.execAddAn n s
  | .nAddAnn n => Sys2Proof.Machine.execNAddAnn n s
  | .addcAn n => Sys2Proof.Machine.execAddcAn n s
  | .nAddcAnn n => Sys2Proof.Machine.execNAddcAnn n s
  | .ldA o => Sys2Proof.Machine.execLdA o s
  | .ldWA o => Sys2Proof.Machine.execLdWA o s
  | .ldB o => Sys2Proof.Machine.execLdB o s
  | .ldWB o => Sys2Proof.Machine.execLdWB o s
  | .ldC o => Sys2Proof.Machine.execLdC o s
  | .ldWC o => Sys2Proof.Machine.execLdWC o s
  | .ldX o => Sys2Proof.Machine.execLdX o s
  | .wLdX o => Sys2Proof.Machine.execWLdX o s
  | .ldWX o => Sys2Proof.Machine.execLdWX o s
  | .word o => Sys2Proof.Machine.execWord o s
  | .wordx o => Sys2Proof.Machine.execWordx o s
  | .andA o => Sys2Proof.Machine.execAndA o s
  | .andAC => Sys2Proof.Machine.execAndAC s
  | .wAndA o => Sys2Proof.Machine.execWAndA o s
  | .xorA o => Sys2Proof.Machine.execXorA o s
  | .xorAC => Sys2Proof.Machine.execXorAC s
  | .wXorA o => Sys2Proof.Machine.execWXorA o s
  | .orA o => Sys2Proof.Machine.execOrA o s
  | .orAC => Sys2Proof.Machine.execOrAC s
  | .wOrA o => Sys2Proof.Machine.execWOrA o s
  | .setflag o => Sys2Proof.Machine.execSetflag o s
  | .reti m => Sys2Proof.Machine.execReti m s
  | .addA o => Sys2Proof.Machine.execAddA o s
  | .addAC => Sys2Proof.Machine.execAddAC s
  | .wAddA o => Sys2Proof.Machine.execWAddA o s
  | .addcA o => Sys2Proof.Machine.execAddcA o s
  | .addcAC => Sys2Proof.Machine.execAddcAC s
  | .wAddcA o => Sys2Proof.Machine.execWAddcA o s
  | .out o => Sys2Proof.Machine.execOut o s
  | .subA o => Sys2Proof.Machine.execSubA o s
  | .subAC => Sys2Proof.Machine.execSubAC s
  | .wSubA o => Sys2Proof.Machine.execWSubA o s
  | .subcA o => Sys2Proof.Machine.execSubcA o s
  | .subcAC => Sys2Proof.Machine.execSubcAC s
  | .wSubcA o => Sys2Proof.Machine.execWSubcA o s
  | .jrN n => Sys2Proof.Machine.execJrN n s
  | .jrB => Sys2Proof.Machine.execJrB s
  | .brN n => Sys2Proof.Machine.execBrN n s
  | .brB => Sys2Proof.Machine.execBrB s
  | .jrc0N n => Sys2Proof.Machine.execJrc0N n s
  | .jrc0B => Sys2Proof.Machine.execJrc0B s
  | .brc0N n => Sys2Proof.Machine.execBrc0N n s
  | .brc0B => Sys2Proof.Machine.execBrc0B s
  | .jrc1N n => Sys2Proof.Machine.execJrc1N n s
  | .jrc1B => Sys2Proof.Machine.execJrc1B s
  | .brc1N n => Sys2Proof.Machine.execBrc1N n s
  | .brc1B => Sys2Proof.Machine.execBrc1B s
  | .jrz0N n => Sys2Proof.Machine.execJrz0N n s
  | .jrz0B => Sys2Proof.Machine.execJrz0B s
  | .brz0N n => Sys2Proof.Machine.execBrz0N n s
  | .brz0B => Sys2Proof.Machine.execBrz0B s
  | .jrz1N n => Sys2Proof.Machine.execJrz1N n s
  | .jrz1B => Sys2Proof.Machine.execJrz1B s
  | .brz1N n => Sys2Proof.Machine.execBrz1N n s
  | .brz1B => Sys2Proof.Machine.execBrz1B s
  | .jmpM m => Sys2Proof.Machine.execJmpM m s
  | .jmpc0 => Sys2Proof.Machine.execJmpc0 s
  | .jmpc1 => Sys2Proof.Machine.execJmpc1 s
  | .jmpz0 => Sys2Proof.Machine.execJmpz0 s
  | .jmpz1 => Sys2Proof.Machine.execJmpz1 s
  | .jmpAB => Sys2Proof.Machine.execJmpAB s
  | .jmpMB m => Sys2Proof.Machine.execJmpMB m s
  | .balM m => Sys2Proof.Machine.execBalM m s
  | .balc0 => Sys2Proof.Machine.execBalc0 s
  | .balc1 => Sys2Proof.Machine.execBalc1 s
  | .balz0 => Sys2Proof.Machine.execBalz0 s
  | .balz1 => Sys2Proof.Machine.execBalz1 s
  | .balAB => Sys2Proof.Machine.execBalAB s
  | .balMB m => Sys2Proof.Machine.execBalMB m s
  | .loopinc n => Sys2Proof.Machine.execLoopinc n s
  | .loopincW n => Sys2Proof.Machine.execLoopincW n s
  | .loopdec n => Sys2Proof.Machine.execLoopdec n s
  | .loopdecW n => Sys2Proof.Machine.execLoopdecW n s
  | .stA o => Sys2Proof.Machine.execStA o s
  | .stWA o => Sys2Proof.Machine.execStWA o s
  | .stB o => Sys2Proof.Machine.execStB o s
  | .stWB o => Sys2Proof.Machine.execStWB o s
  | .zero o => Sys2Proof.Machine.execZero o s
  | .zeroW o => Sys2Proof.Machine.execZeroW o s
  | .stC o => Sys2Proof.Machine.execStC o s
  | .stWC o => Sys2Proof.Machine.execStWC o s
  | .getflag o => Sys2Proof.Machine.execGetflag o s
  | .getflagW o => Sys2Proof.Machine.execGetflagW o s
  | .inp o => Sys2Proof.Machine.execInp o s
  | .inpW o => Sys2Proof.Machine.execInpW o s
  | .stX o => Sys2Proof.Machine.execStX o s
  | .stTX o => Sys2Proof.Machine.execStTX o s
  | .dincM o => Sys2Proof.Machine.execDincM o s
  | .dincWM o => Sys2Proof.Machine.execDincWM o s
  | .ddecM o => Sys2Proof.Machine.execDdecM o s
  | .ddecWM o => Sys2Proof.Machine.execDdecWM o s
  | .shl o => Sys2Proof.Machine.execShl o s
  | .shlW o => Sys2Proof.Machine.execShlW o s
  | .shlc o => Sys2Proof.Machine.execShlc o s
  | .shlcW o => Sys2Proof.Machine.execShlcW o s
  | .shr o => Sys2Proof.Machine.execShr o s
  | .shrW o => Sys2Proof.Machine.execShrW o s
  | .shrc o => Sys2Proof.Machine.execShrc o s
  | .shrcW o => Sys2Proof.Machine.execShrcW o s
  | .mov o => Sys2Proof.Machine.execMov o s
  | .movW o => Sys2Proof.Machine.execMovW o s
  | .andM o => Sys2Proof.Machine.execAndM o s
  | .andWM o => Sys2Proof.Machine.execAndWM o s
  | .xorM o => Sys2Proof.Machine.execXorM o s
  | .xorWM o => Sys2Proof.Machine.execXorWM o s
  | .orM o => Sys2Proof.Machine.execOrM o s
  | .orWM o => Sys2Proof.Machine.execOrWM o s
  | .incM o => Sys2Proof.Machine.execIncM o s
  | .incWM o => Sys2Proof.Machine.execIncWM o s
  | .inccM o => Sys2Proof.Machine.execInccM o s
  | .inccWM o => Sys2Proof.Machine.execInccWM o s
  | .addM o => Sys2Proof.Machine.execAddM o s
  | .addWM o => Sys2Proof.Machine.execAddWM o s
  | .addcM o => Sys2Proof.Machine.execAddcM o s
  | .addcWM o => Sys2Proof.Machine.execAddcWM o s
  | .decM o => Sys2Proof.Machine.execDecM o s
  | .decKeep m => Sys2Proof.Machine.execDecKeep m s
  | .decWM o => Sys2Proof.Machine.execDecWM o s
  | .decWKeep => Sys2Proof.Machine.execDecWKeep s
  | .deccM o => Sys2Proof.Machine.execDeccM o s
  | .deccWM o => Sys2Proof.Machine.execDeccWM o s
  | .subM o => Sys2Proof.Machine.execSubM o s
  | .subWM o => Sys2Proof.Machine.execSubWM o s
  | .subcM o => Sys2Proof.Machine.execSubcM o s
  | .subcWM o => Sys2Proof.Machine.execSubcWM o s
  | .hardMacro bit15 op g => Sys2Proof.Machine.execHardMacro bit15 op g s
  | .reservedG e op g => Sys2Proof.Machine.execReservedG e op g s
  | .reservedOpmsb op g => Sys2Proof.Machine.execReservedOpmsb op g s
  | .unusedOp e op g => Sys2Proof.Machine.execUnusedOp e op g s

end Sys2Proof.Machine
end

