-- ==== Sys2Proof/Machine/Fetch.lean ====
section
/-! DEFINITION. Fetching an instruction and advancing the active counter (R28, R63, R65, R94; R101 steps 2, 3 and 5), and placing
one where the next step fetches. -/

namespace Sys2Proof.Machine

/-- An instruction word at this address lies outside the program area: in a split model at or beyond DATA_BASE, else
beyond the memory (R63). -/
def outsideProgram (s : State) (v : Pair) : Bool := !decide (v.toNat + 1 < programEnd s)

/-- The two bytes of the instruction word at an address, low byte first (R65). -/
def bytesAt (s : State) (v : Pair) : List Byte := [s.mem.read v.toNat, s.mem.read (v.toNat + 1)]

/-- The bytes of the instruction at the active counter: one word, or two for LD.T (R94). -/
def fetchBytes (s : State) : Except Fault (List Byte) :=
  if outsideProgram s (activeCounter s) then .error .noMemory
  else if needsSecondWord (decodeCtx s) (wordAt s (activeCounter s).toNat) then
    if outsideProgram s (afterWord s (activeCounter s)) then .error .noMemory
    else .ok (bytesAt s (activeCounter s) ++ bytesAt s (afterWord s (activeCounter s)))
  else .ok (bytesAt s (activeCounter s))

/-- Bit 14 of the word fetched ends the macro that runs (R92, R393). -/
def endsMacro (s : State) : Bool := s.mf && !s.inInt && macroBit (wordAt s (activeCounter s).toNat)

/-- Put the four bytes of an instruction, its words one after another as they are fetched, where the next step
fetches it. -/
def placeBytes (s : State) (bytes : List Byte) : State :=
  let p := (activeCounter s).toNat
  let q := (afterWord s (activeCounter s)).toNat
  let m := ((s.mem.write q (bytes.getD 2 0)).write (q + 1) (bytes.getD 3 0))
  { s with mem := (m.write p (bytes.getD 0 0)).write (p + 1) (bytes.getD 1 0) }

end Sys2Proof.Machine
end

