-- ==== Sys2Proof/Machine/PrefixRules.lean ====
section
/-! DEFINITION. What a pending prefix allows and what ends it (R100, R101 step 7, R242), and which instructions may end a hard macro
(R393). -/

namespace Sys2Proof.Machine

/-- One of the prefix instructions (R100). PMEMACC has no encoding. -/
def isPrefixInstr : Instr → Bool
  | .num _ => true
  | .word _ => true
  | .wordx _ => true
  | .opmsb => true
  | _ => false

/-- An encoding without a meaning: its own fault comes first, whatever prefix is pending. -/
def isReserved : Instr → Bool
  | .reservedG _ _ _ => true
  | .reservedOpmsb _ _ => true
  | .unusedOp _ _ _ => true
  | .getflagW _ => true
  | _ => false

/-- What consumes a NUM: another NUM, and the immediate instructions of OP 05 to 0B, 0E, 0F (R100). -/
def takesNum : Instr → Bool
  | .num _ => true
  | .andAn _ => true
  | .nAndAnn _ => true
  | .xorAn _ => true
  | .nXorAnn _ => true
  | .orAn _ => true
  | .nOrAnn _ => true
  | .ldAn _ => true
  | .nLdAnn _ => true
  | .ldBn _ => true
  | .nLdBnn _ => true
  | .ldCn _ => true
  | .nLdCnn _ => true
  | .ldXn _ => true
  | .nLdXnn _ => true
  | .addAn _ => true
  | .nAddAnn _ => true
  | .addcAn _ => true
  | .nAddcAnn _ => true
  | _ => false

/-- What consumes a WORD or a WORDX: the `W:` forms of OP 13, 15 to 17, 1A, 1B, 1E, 1F (R100, R242). -/
def takesWord : Instr → Bool
  | .wLdX _ => true
  | .wAndA _ => true
  | .wXorA _ => true
  | .wOrA _ => true
  | .wAddA _ => true
  | .wAddcA _ => true
  | .wSubA _ => true
  | .wSubcA _ => true
  | _ => false

/-- The register C rows, which have no `W:` form: after a WORD they are reserved (R105). After a WORDX they are too, a
DESIGN CHOICE: R105 names the WORD prefix alone, and R100 has WORDX consumed with any g (log 32). -/
def isRegisterCRow : Instr → Bool
  | .andAC => true
  | .xorAC => true
  | .orAC => true
  | .addAC => true
  | .addcAC => true
  | .subAC => true
  | .subcAC => true
  | _ => false

/-- Instructions without a data access: those of OP 00, 01 but MULX, of OP 04 to 0F and 20 to 27, and the register C
rows (R100: PMEMACC is consumed by an instruction with a data access). -/
def hasDataAccess : Instr → Bool
  | .mulx => true
  | .ldA _ | .ldWA _ | .ldB _ | .ldWB _ | .ldC _ | .ldWC _ | .ldX _ | .wLdX _ | .ldWX _ => true
  | .word _ | .wordx _ => true
  | .andA _ | .wAndA _ | .xorA _ | .wXorA _ | .orA _ | .wOrA _ => true
  | .setflag _ | .reti _ | .out _ => true
  | .addA _ | .wAddA _ | .addcA _ | .wAddcA _ | .subA _ | .wSubA _ | .subcA _ | .wSubcA _ => true
  | .stA _ | .stWA _ | .stB _ | .stWB _ | .zero _ | .zeroW _ | .stC _ | .stWC _ => true
  | .getflag _ | .inp _ | .inpW _ | .stX _ | .stTX _ => true
  | .dincM _ | .dincWM _ | .ddecM _ | .ddecWM _ => true
  | .shl _ | .shlW _ | .shlc _ | .shlcW _ | .shr _ | .shrW _ | .shrc _ | .shrcW _ => true
  | .mov _ | .movW _ | .andM _ | .andWM _ | .xorM _ | .xorWM _ | .orM _ | .orWM _ => true
  | .incM _ | .incWM _ | .inccM _ | .inccWM _ | .addM _ | .addWM _ | .addcM _ | .addcWM _ => true
  | .decM _ | .decKeep _ | .decWM _ | .decWKeep | .deccM _ | .deccWM _ => true
  | .subM _ | .subWM _ | .subcM _ | .subcWM _ => true
  | _ => false

/-- A hard macro entry: no prefix may be pending before it (R391). -/
def isHardMacro : Instr → Bool
  | .hardMacro _ _ _ => true
  | _ => false

/-- What a pending prefix makes of the instruction that follows it: misuse when the table of R100 does not list the
instruction as a consumer (log 18); a register C row is reserved after WORD (R105), and after WORDX by a DESIGN CHOICE (log 32).
OPMSB is consumed by any instruction. -/
def prefixFault (i : Instr) (s : State) : Option Fault :=
  if isReserved i then none
  else if isHardMacro i then (if !s.inInt && prefixPending s then some .prefixMisuse else none)
  else if s.numN != .zero && !takesNum i then some .prefixMisuse
  else if s.wordK != .none && isRegisterCRow i then some .reservedG
  else if s.wordK != .none && !takesWord i then some .prefixMisuse
  else if s.pmemP && !hasDataAccess i then some .prefixMisuse
  else none

/-- The instruction is NUM (R101 step 7). -/
def keepsNum : Instr → Bool
  | .num _ => true
  | _ => false

/-- The instruction is WORD or WORDX (R101 step 7). -/
def keepsWord : Instr → Bool
  | .word _ => true
  | .wordx _ => true
  | _ => false

/-- The instruction is OPMSB (R101 step 7). -/
def keepsOpmsb : Instr → Bool
  | .opmsb => true
  | _ => false

/-- The prefixes an instruction ends: all but its own (R101 step 7). No word is PMEMACC. -/
def clearPrefixes (i : Instr) (s : State) : State :=
  { s with
    numN := if keepsNum i then s.numN else .zero
    wordK := if keepsWord i then s.wordK else .none
    opmsbP := keepsOpmsb i && s.opmsbP
    pmemP := false }

/-- The instruction is a branch of OP 20 to 27 that is taken in this state (R393). -/
def branchTaken (i : Instr) (s : State) : Bool :=
  match i with
  | .jrN _ | .jrB | .brN _ | .brB => true
  | .jrc0N _ | .jrc0B | .brc0N _ | .brc0B => !s.cf
  | .jrc1N _ | .jrc1B | .brc1N _ | .brc1B => s.cf
  | .jrz0N _ | .jrz0B | .brz0N _ | .brz0B => !s.zf
  | .jrz1N _ | .jrz1B | .brz1N _ | .brz1B => s.zf
  | .jmpM _ | .jmpAB | .jmpMB _ | .balM _ | .balAB | .balMB _ => true
  | .jmpc0 | .balc0 => !s.cf
  | .jmpc1 | .balc1 => s.cf
  | .jmpz0 | .balz0 => !s.zf
  | .jmpz1 | .balz1 => s.zf
  | .loopinc _ | .loopincW _ | .loopdec _ | .loopdecW _ => s.c != 0
  | _ => false

/-- SETMC, SETFLAG and INT, which may not end a hard macro (R393). -/
def neverEndsMacro : Instr → Bool
  | .setmc => true
  | .setflag _ => true
  | .int _ => true
  | _ => false

/-- What the ending instruction of a hard macro may not be (R393, log 23). -/
def endFault (i : Instr) (s : State) : Option Fault :=
  if isPrefixInstr i then some .prefixMisuse
  else if neverEndsMacro i || branchTaken i s then some .macroEndInstr
  else none

end Sys2Proof.Machine
end

