-- ==== Sys2Proof/Machine/Cycle.lean ====
section
/-! DEFINITION. One step of the machine (R101): an interrupt taken at the boundary, or one instruction fetched, decoded and
executed, with the prefixes it ends and the macro it ends. -/

namespace Sys2Proof.Machine

/-- Steps 7 and 8 of R101 after an instruction: the prefixes it ends, and the macro when its word ends one. -/
def retire (i : Instr) (ends : Bool) (s : State) : State :=
  { clearPrefixes i s with mf := if ends then false else s.mf }

/-- Steps 6 to 8 of R101, the counter past the instruction's words: the checks on prefixes and on the end of a macro,
the instruction's meaning, then what it retires. -/
def runInstr (i : Instr) (ends : Bool) (s : State) : Out :=
  match prefixFault i s with
  | some f => .fault f
  | none =>
    match (if ends then endFault i s else none) with
    | some f => .fault f
    | none =>
      match exec i s with
      | .next t => .next (retire i ends t)
      | .fault f => .fault f
      | .refused r => .refused r

/-- Steps 2 to 8 of R101: fetch, decode, advance the counter, run. -/
def runNext (s : State) : Out :=
  match fetchBytes s with
  | .error f => .fault f
  | .ok bytes =>
    match decode (decodeCtx s) bytes with
    | .error _ => .refused .tooFewBytes
    | .ok (i, _) => runInstr i (endsMacro s) (advance bytes.length s)

/-- One step: the platform's requests of this boundary set the latches, then an interrupt is taken (step 1 of R101),
or the next instruction runs. -/
def cycle (s : State) : Out :=
  let t := takeRequests s
  match takenCause t with
  | some k => .next (enterInterrupt k t)
  | none => runNext t

end Sys2Proof.Machine
end

