-- ==== Sys2Proof/Machine/Step.lean ====
section
/-! DEFINITION. The step function, and the state with an instruction placed where it fetches next. -/

namespace Sys2Proof.Machine

/-- One step of the machine (R101). -/
def step (s : State) : Out := cycle s

/-- The state with an instruction's bits (spec/opcode_table.json's numbering) stored where `step` fetches its next
instruction; the bits above `nbits` are 0. It stands for the platform's loading of a program (log 24). -/
def State.withFetchWord (s : State) (nbits w : Nat) : State := placeBytes s (tableBytes nbits w)

end Sys2Proof.Machine
end

