-- ==== Sys2Proof/Safety.lean ====
section
/-! DEFINITION. What the statements about the machine are written in: the invariant of a state, when an access is plain, how
an access of each width may come out, and when and how a step runs an instruction. -/

namespace Sys2Proof.Machine

/-! ## The invariant -/

/-- A counter's value: even, and within its width (R23, R24, R25, R29). -/
def counterOk (bits v : Nat) : Bool := decide (v % 2 = 0) && decide (v < 2 ^ bits)

/-- How many prefixes are pending. -/
def prefixCount (s : State) : Nat :=
  (s.numN != .zero).toNat + (s.wordK != .none).toNat + s.opmsbP.toNat + s.pmemP.toNat

/-- What every step keeps: the parameters are as R6 allows, the memory is in its canonical form and inside the installed
memory (R60), the counters are even and within their widths, UF and AE stay 0 without USER_MODE (R33), and at most one
prefix is pending (R100, R101). -/
structure Inv (s : State) : Prop where
  cfg_wf : s.cfg.wf = true
  mem_wf : s.mem.wf = true
  mem_below : s.mem.below s.cfg.memBytes = true
  pc_ok : counterOk s.cfg.pcBits s.pc.toNat = true
  mc_ok : counterOk s.cfg.mcBits s.mc.toNat = true
  ic_ok : counterOk s.cfg.icBits s.ic.toNat = true
  uf_absent : s.cfg.userMode = false → s.uf = false
  ae_absent : s.cfg.userMode = false → s.ae = false
  one_prefix : prefixCount s ≤ 1

/-! ## Data bytes at their physical addresses -/

/-- The byte at a data address. -/
def byteAt (addr : Triple) (s : State) : Byte := s.mem.read (physical s addr)

/-- The little-endian word at a data address (R64). -/
def wordAtData (addr : Triple) (s : State) : Word := byteAt (addr + 1) s ++ byteAt addr s

/-- The state with a byte stored at a data address. -/
def putByte (addr : Triple) (v : Byte) (s : State) : State :=
  { s with mem := s.mem.write (physical s addr) v }

/-- The state with a word stored at a data address, low byte at the address (R64). -/
def putWord (addr : Triple) (v : Word) (s : State) : State :=
  putByte (addr + 1) (v.extractLsb' 8 8) (putByte addr (v.extractLsb' 0 8) s)

/-- The state with a triple stored at a data address, low byte at the address (R64). -/
def putTriple (addr : Triple) (v : Triple) (s : State) : State :=
  putByte (addr + 2) (v.extractLsb' 16 8) (putByte (addr + 1) (v.extractLsb' 8 8) (putByte addr (v.extractLsb' 0 8) s))

/-! ## When an access is plain -/

/-- A byte at this data address exists and the user mode does not refuse it (R62, R70). -/
def plainAt (restricted : Bool) (addr : Triple) (s : State) : Bool :=
  !isProtected s restricted addr && decide (physical s addr < s.cfg.memBytes)

/-- A byte may be stored at this data address: it is plain, PMEMACC does not drop the write (R71), and it is no byte of the
next instruction (R76). -/
def storableAt (restricted : Bool) (addr : Triple) (s : State) : Bool :=
  plainAt restricted addr s && !(s.pmemP && userMode s) && !hitsNext s (physical s addr)

/-- A plain byte operand. -/
def plainByte (o : Operand) (s : State) : Bool := plainAt (restricted o) (ea o s) s

/-- A plain word operand: at an even address, both bytes plain (R66). -/
def plainWord (o : Operand) (s : State) : Bool :=
  !oddAddress (ea o s) && plainAt (restricted o) (ea o s) s && plainAt (restricted o) (ea o s + 1) s

/-- A byte may be stored at the operand. -/
def storableByte (o : Operand) (s : State) : Bool := storableAt (restricted o) (ea o s) s

/-- A word may be stored at the operand. -/
def storableWord (o : Operand) (s : State) : Bool :=
  !oddAddress (ea o s) && storableAt (restricted o) (ea o s) s && storableAt (restricted o) (ea o s + 1) s

/-- A triple may be stored at the operand. -/
def storableTriple (o : Operand) (s : State) : Bool :=
  !notFour (ea o s) && storableAt (restricted o) (ea o s) s && storableAt (restricted o) (ea o s + 1) s &&
  storableAt (restricted o) (ea o s + 2) s

/-! ## How an instruction with a memory operand may come out -/

/-- AE is set and `n` free values are drawn: what a refused read leaves (R70). -/
def afterRefusal (n : Nat) (s : State) : State := { s with ae := true, draws := s.draws + n }

/-- Write a result's flags (R10). -/
def withFlags {w : Nat} (r : Alu w) (s : State) : State := { s with cf := r.cf.getD s.cf, zf := r.zf.getD s.zf }

/-- Write a result to A, and its flags. -/
def withAcc (r : Alu 16) (s : State) : State := withFlags r { s with a := r.val }

/-- An instruction that reads the byte at a data address and then comes out as `k` says: the byte is read (R9, R62), the user
mode refuses the read and a free byte is delivered (R70), or there is no such byte and it faults (R62). -/
def ReadsByteAtThen (r : Bool) (addr : Triple) (s : State) (out : Out) (k : Byte → State → Prop) : Prop :=
  (plainAt r addr s = true → k (byteAt addr s) s) ∧
  (isProtected s r addr = true → k (Config.drawByte s.draws) (afterRefusal 1 s)) ∧
  (isProtected s r addr = false → s.cfg.memBytes ≤ physical s addr → out = .fault .noMemory)

/-- An instruction that reads a byte operand and then comes out as `k` says. -/
def ReadsByteThen (o : Operand) (s : State) (out : Out) (k : Byte → State → Prop) : Prop :=
  ReadsByteAtThen (restricted o) (ea o s) s out k

/-- An instruction that reads a byte operand and goes on to the state `k` gives. -/
def ReadsByte (o : Operand) (s : State) (out : Out) (k : Byte → State → State) : Prop :=
  ReadsByteThen o s out fun v t => out = .next (k v t)

/-- An instruction that reads a word operand and then comes out as `k` says: at an odd address it faults (R66); else the word
is read, or the user mode refuses both bytes or the low one (R70), or a byte of it does not exist and it faults (R62). -/
def ReadsWordThen (o : Operand) (s : State) (out : Out) (k : Word → State → Prop) : Prop :=
  (oddAddress (ea o s) = true → out = .fault .misaligned) ∧
  (plainWord o s = true → k (wordAtData (ea o s) s) s) ∧
  (oddAddress (ea o s) = false → isProtected s (restricted o) (ea o s + 1) = true →
    k (Config.drawByte (s.draws + 1) ++ Config.drawByte s.draws) (afterRefusal 2 s)) ∧
  (oddAddress (ea o s) = false → isProtected s (restricted o) (ea o s) = true →
    plainAt (restricted o) (ea o s + 1) s = true →
    k (byteAt (ea o s + 1) s ++ Config.drawByte s.draws) (afterRefusal 1 s)) ∧
  (oddAddress (ea o s) = false → isProtected s (restricted o) (ea o s + 1) = false →
    s.cfg.memBytes ≤ physical s (ea o s + 1) → out = .fault .noMemory)

/-- An instruction that reads a word operand and goes on to the state `k` gives. -/
def ReadsWord (o : Operand) (s : State) (out : Out) (k : Word → State → State) : Prop :=
  ReadsWordThen o s out fun v t => out = .next (k v t)

/-- An instruction that stores bytes one after another (R67) and then goes on to the state `k` gives. Each byte is stored, or
the user mode refuses it (R70), or PMEMACC drops it (R71), or there is no such byte (R62) or it is a byte of the next
instruction (R76), and the instruction faults. -/
def StoresEach (r : Bool) (out : Out) (k : State → State) : List (Triple × Byte) → State → Prop
  | [], s => out = .next (k s)
  | (addr, v) :: rest, s =>
    (storableAt r addr s = true → StoresEach r out k rest (putByte addr v s)) ∧
    (isProtected s r addr = true → StoresEach r out k rest { s with ae := true }) ∧
    (isProtected s r addr = false → (s.pmemP && userMode s) = true → StoresEach r out k rest s) ∧
    (isProtected s r addr = false → (s.pmemP && userMode s) = false → s.cfg.memBytes ≤ physical s addr →
      out = .fault .noMemory) ∧
    (plainAt r addr s = true → (s.pmemP && userMode s) = false → hitsNext s (physical s addr) = true →
      out = .fault .smcAdjacent)

/-- The bytes of a word at an address, low byte first (R64). -/
def wordCells (addr : Triple) (v : Word) : List (Triple × Byte) :=
  [(addr, v.extractLsb' 0 8), (addr + 1, v.extractLsb' 8 8)]

/-- The bytes of a triple at an address, low byte first (R64). -/
def tripleCells (addr : Triple) (v : Triple) : List (Triple × Byte) :=
  [(addr, v.extractLsb' 0 8), (addr + 1, v.extractLsb' 8 8), (addr + 2, v.extractLsb' 16 8)]

/-- An instruction that stores a byte at an operand: it is stored, the user mode refuses it (R70), PMEMACC drops it (R71), or
there is no such byte (R62), or it is a byte of the next instruction (R76). -/
def StoresByte (o : Operand) (s : State) (out : Out) (v : Byte) : Prop :=
  StoresEach (restricted o) out id [(ea o s, v)] s

/-- An instruction that stores a word at an operand: at an odd address it faults (R66); else it is stored, refused whole (R70)
or dropped (R71), and whatever becomes of each byte is said by `StoresEach`: one byte refused alone, a byte that does not
exist (R62), a byte of the next instruction (R76). -/
def StoresWord (o : Operand) (s : State) (out : Out) (v : Word) : Prop :=
  (oddAddress (ea o s) = true → out = .fault .misaligned) ∧
  (storableWord o s = true → out = .next (putWord (ea o s) v s)) ∧
  (oddAddress (ea o s) = false → isProtected s (restricted o) (ea o s + 1) = true → out = .next { s with ae := true }) ∧
  (oddAddress (ea o s) = false → isProtected s (restricted o) (ea o s) = false → (s.pmemP && userMode s) = true →
    out = .next s) ∧
  (oddAddress (ea o s) = false → StoresEach (restricted o) out id (wordCells (ea o s) v) s)

/-- An instruction that stores a triple at an operand: not at a multiple of 4 it faults (R66); else it is stored, refused whole
(R70) or dropped (R71), and whatever becomes of each byte is said by `StoresEach`. -/
def StoresTriple (o : Operand) (s : State) (out : Out) (v : Triple) : Prop :=
  (notFour (ea o s) = true → out = .fault .misaligned) ∧
  (storableTriple o s = true → out = .next (putTriple (ea o s) v s)) ∧
  (notFour (ea o s) = false → isProtected s (restricted o) (ea o s + 2) = true → out = .next { s with ae := true }) ∧
  (notFour (ea o s) = false → isProtected s (restricted o) (ea o s) = false → (s.pmemP && userMode s) = true →
    out = .next s) ∧
  (notFour (ea o s) = false → StoresEach (restricted o) out id (tripleCells (ea o s) v) s)

/-- A byte of memory is read, changed and written back with its flags (R340). In user mode a protected byte is neither read
nor written, and the flags come from a free byte (R70); under PMEMACC in user mode only the write is dropped (R71); a byte of
the next instruction faults (R76), and one that does not exist (R62). -/
def ModifiesByte (o : Operand) (s : State) (out : Out) (f : Byte → Alu 8) : Prop :=
  (storableByte o s = true →
    out = .next (withFlags (f (byteAt (ea o s) s)) (putByte (ea o s) (f (byteAt (ea o s) s)).val s))) ∧
  (isProtected s (restricted o) (ea o s) = true →
    out = .next (withFlags (f (Config.drawByte s.draws)) (afterRefusal 1 s))) ∧
  (plainByte o s = true → (s.pmemP && userMode s) = true → out = .next (withFlags (f (byteAt (ea o s) s)) s)) ∧
  (plainByte o s = true → (s.pmemP && userMode s) = false → hitsNext s (physical s (ea o s)) = true →
    out = .fault .smcAdjacent) ∧
  (isProtected s (restricted o) (ea o s) = false → s.cfg.memBytes ≤ physical s (ea o s) → out = .fault .noMemory)

/-- A word of memory is read, changed and written back with its flags (R340): stored, refused whole (R70), or the write
dropped (R71); and in general read as `ReadsWordThen` says (at an odd address a fault, R66), then stored byte by byte as
`StoresEach` says: the low byte refused alone, a byte that does not exist (R62), a byte of the next instruction (R76). -/
def ModifiesWord (o : Operand) (s : State) (out : Out) (f : Word → Alu 16) : Prop :=
  (storableWord o s = true →
    out = .next (withFlags (f (wordAtData (ea o s) s)) (putWord (ea o s) (f (wordAtData (ea o s) s)).val s))) ∧
  (oddAddress (ea o s) = false → isProtected s (restricted o) (ea o s + 1) = true →
    out = .next (withFlags (f (Config.drawByte (s.draws + 1) ++ Config.drawByte s.draws)) (afterRefusal 2 s))) ∧
  (plainWord o s = true → (s.pmemP && userMode s) = true → out = .next (withFlags (f (wordAtData (ea o s) s)) s)) ∧
  ReadsWordThen o s out fun v t =>
    StoresEach (restricted o) out (withFlags (f v)) (wordCells (ea o s) (f v).val) t

/-! ## Where the active counter goes -/

/-- The state differs from `s` in the active counter alone, which holds the target cut to its width (R26, R29, R280). -/
def MovesTo (target : Int) (s t : State) : Prop :=
  t = { s with pc := t.pc, mc := t.mc, ic := t.ic } ∧
  (s.inInt = true ∨ s.mf = true → t.pc = s.pc) ∧
  (s.inInt = true ∨ s.mf = false → t.mc = s.mc) ∧
  (s.inInt = false → t.ic = s.ic) ∧
  ((activeCounter t).toNat : Int) = target % (2 ^ activeBits s : Nat)

/-- Branch to the target when the condition holds, else fall through with nothing changed (R280). -/
def Jumps (cond : Bool) (target : Int) (s : State) (out : Out) : Prop :=
  (cond = true → ∃ t, out = .next t ∧ MovesTo target s t) ∧ (cond = false → out = .next s)

/-- The pair A:B holding the link, the word address of the next instruction (R282). -/
def linked (s : State) : State :=
  { s with a := BitVec.ofNat 16 ((activeCounter s).toNat / 2 / 65536), b := BitVec.ofNat 16 ((activeCounter s).toNat / 2) }

/-- Link and branch when the condition holds; else A:B keeps its value or takes the link, one free bit having been drawn
(R282). -/
def Links (cond : Bool) (target : Int) (s : State) (out : Out) : Prop :=
  (cond = true → ∃ t, out = .next t ∧ MovesTo target (linked s) t) ∧
  (cond = false → out = .next { s with draws := s.draws + 1 } ∨ out = .next { linked s with draws := s.draws + 1 })

/-! ## The step: when it is an instruction's, what the prefixes allow, what may end a macro -/

/-- No prefix is pending (R101 step 1). -/
def NonePending (s : State) : Prop := s.numN = .zero ∧ s.wordK = .none ∧ s.opmsbP = false ∧ s.pmemP = false

/-- No interrupt is to be taken (R406): one runs, they are disabled, a prefix is pending, or no cause is. -/
def NoInterruptDue (s : State) : Prop :=
  s.inInt = true ∨ s.ef = false ∨ ¬NonePending s ∨
  (s.int0 = false ∧ (s.cfg.userMode && s.ae) = false ∧ s.int1 = false)

/-- The decoder's context in a state: the pending OPMSB, NUM and WORD, and whether millicode runs (R91, R92, R201, R242). -/
def contextOf (s : State) : DecodeCtx :=
  { opmsb := s.opmsbP, num := s.numN != .zero, word := s.wordK != .none, millicode := s.mf && !s.inInt }

/-- A word is the first of LD.T, the one instruction of two words: OP 0B, an effective opmsb of 1, and bit 14 clear or ending
a macro (R91, R92, R94). -/
def TwoWords (ctx : DecodeCtx) (w : Word) : Prop :=
  w.extractLsb' 8 6 = 0x0B ∧ (w.getLsbD 15 = true ∨ ctx.opmsb = true) ∧ (w.getLsbD 14 = false ∨ ctx.millicode = true)

/-- The address of the word at the active counter. -/
def firstAt (s : State) : Nat := (activeCounter s).toNat

/-- The address of the word after it, where the counter goes on to (R28, R29). -/
def secondAt (s : State) : Nat := (firstAt s + 2) % 2 ^ activeBits s

/-- The word at the active counter is the first of two. -/
def TwoWordsAtCounter (s : State) : Prop := TwoWords (contextOf s) (s.mem.read (firstAt s + 1) ++ s.mem.read (firstAt s))

/-- The bytes of the instruction at the active counter: one word, or two for LD.T, each inside the program area (R28, R63,
R65, R94). -/
def BytesAtCounter (s : State) (bytes : List Byte) : Prop :=
  let first := [s.mem.read (firstAt s), s.mem.read (firstAt s + 1)]
  firstAt s + 1 < programEnd s ∧
  ((¬TwoWordsAtCounter s ∧ bytes = first) ∨
    (TwoWordsAtCounter s ∧ secondAt s + 1 < programEnd s ∧
      bytes = first ++ [s.mem.read (secondAt s), s.mem.read (secondAt s + 1)]))

/-- The word fetched has bit 14 set in millicode: it ends the macro (R92, R393). -/
def EndsMacro (s : State) (bytes : List Byte) : Prop :=
  s.mf = true ∧ s.inInt = false ∧ (bytes.getD 1 0).getLsbD 6 = true

/-- The encodings without a meaning, which raise their own reason whatever prefix is pending (log 18). -/
def HasNoMeaning (i : Instr) : Prop :=
  (∃ e op g, i = .reservedG e op g ∨ i = .reservedOpmsb op g ∨ i = .unusedOp e op g) ∨ ∃ o, i = .getflagW o

/-- A hard macro entry. -/
def EntersMacro (i : Instr) : Prop := ∃ e op g, i = .hardMacro e op g

/-- The consumers of NUM: the immediates of OP 05 to 0B, 0E, 0F, and NUM (R100). -/
def ConsumesNum (i : Instr) : Prop :=
  ∃ n, i ∈ [Instr.num n, .andAn n, .nAndAnn n, .xorAn n, .nXorAnn n, .orAn n, .nOrAnn n, .ldAn n, .nLdAnn n, .ldBn n,
    .nLdBnn n, .ldCn n, .nLdCnn n, .ldXn n, .nLdXnn n, .addAn n, .nAddAnn n, .addcAn n, .nAddcAnn n]

/-- The consumers of WORD and WORDX: the `W:` rows (R100, R242). -/
def ConsumesWord (i : Instr) : Prop :=
  ∃ o, i ∈ [Instr.wLdX o, .wAndA o, .wXorA o, .wOrA o, .wAddA o, .wAddcA o, .wSubA o, .wSubcA o]

/-- The rows on register C, which have no `W:` form (R105; after WORDX log 32). -/
def OnRegisterC (i : Instr) : Prop := i ∈ [Instr.andAC, .xorAC, .orAC, .addAC, .addcAC, .subAC, .subcAC]

/-- The instructions with a data access: what consumes PMEMACC (R100). -/
def AccessesData (i : Instr) : Prop :=
  i = .mulx ∨ i = .decWKeep ∨ (∃ m, i = .reti m ∨ i = .decKeep m) ∨
  ∃ o, i ∈ [Instr.ldA o, .ldWA o, .ldB o, .ldWB o, .ldC o, .ldWC o, .ldX o, .wLdX o, .ldWX o, .word o, .wordx o,
    .andA o, .wAndA o, .xorA o, .wXorA o, .orA o, .wOrA o, .setflag o, .out o, .addA o, .wAddA o, .addcA o, .wAddcA o,
    .subA o, .wSubA o, .subcA o, .wSubcA o, .stA o, .stWA o, .stB o, .stWB o, .zero o, .zeroW o, .stC o, .stWC o,
    .getflag o, .inp o, .inpW o, .stX o, .stTX o, .dincM o, .dincWM o, .ddecM o, .ddecWM o, .shl o, .shlW o, .shlc o,
    .shlcW o, .shr o, .shrW o, .shrc o, .shrcW o, .mov o, .movW o, .andM o, .andWM o, .xorM o, .xorWM o, .orM o, .orWM o,
    .incM o, .incWM o, .inccM o, .inccWM o, .addM o, .addWM o, .addcM o, .addcWM o, .decM o, .decWM o, .deccM o,
    .deccWM o, .subM o, .subWM o, .subcM o, .subcWM o]

/-- The pending prefixes let the instruction run: each is one it consumes (R100), none is pending before a hard macro
(R391); an encoding without a meaning comes to its own fault. -/
def PrefixesAllow (i : Instr) (s : State) : Prop :=
  HasNoMeaning i ∨ (EntersMacro i ∧ (s.inInt = true ∨ NonePending s)) ∨
  (¬EntersMacro i ∧ (s.numN ≠ .zero → ConsumesNum i) ∧ (s.wordK ≠ .none → ConsumesWord i) ∧
    (s.pmemP = true → AccessesData i))

/-- One of the prefix instructions. -/
def IsPrefix (i : Instr) : Prop := (∃ n, i = .num n) ∨ (∃ o, i = .word o ∨ i = .wordx o) ∨ i = .opmsb

/-- SETMC, SETFLAG or INT (R393). -/
def NeverEndsMacro (i : Instr) : Prop := i = .setmc ∨ (∃ o, i = .setflag o) ∨ ∃ k, i = .int k

/-- A branch of OP 20 to 27 that this state takes (R393). -/
def Branches (i : Instr) (s : State) : Prop :=
  ∃ (n : Byte) (m : Fin 122) (k : BitVec 7),
    i ∈ [Instr.jrN n, .jrB, .brN n, .brB, .jmpM m, .jmpAB, .jmpMB k, .balM m, .balAB, .balMB k] ∨
    (s.cf = true ∧ i ∈ [Instr.jrc1N n, .jrc1B, .brc1N n, .brc1B, .jmpc1, .balc1]) ∨
    (s.cf = false ∧ i ∈ [Instr.jrc0N n, .jrc0B, .brc0N n, .brc0B, .jmpc0, .balc0]) ∨
    (s.zf = true ∧ i ∈ [Instr.jrz1N n, .jrz1B, .brz1N n, .brz1B, .jmpz1, .balz1]) ∨
    (s.zf = false ∧ i ∈ [Instr.jrz0N n, .jrz0B, .brz0N n, .brz0B, .jmpz0, .balz0]) ∨
    (s.c ≠ 0 ∧ i ∈ [Instr.loopinc n, .loopincW n, .loopdec n, .loopdecW n])

/-- A branch of OP 20 to 27 that this state does not take: the condition fails, or the loop falls through (R393). -/
def FallsThrough (i : Instr) (s : State) : Prop :=
  ∃ n : Byte,
    (s.cf = false ∧ i ∈ [Instr.jrc1N n, .jrc1B, .brc1N n, .brc1B, .jmpc1, .balc1]) ∨
    (s.cf = true ∧ i ∈ [Instr.jrc0N n, .jrc0B, .brc0N n, .brc0B, .jmpc0, .balc0]) ∨
    (s.zf = false ∧ i ∈ [Instr.jrz1N n, .jrz1B, .brz1N n, .brz1B, .jmpz1, .balz1]) ∨
    (s.zf = true ∧ i ∈ [Instr.jrz0N n, .jrz0B, .brz0N n, .brz0B, .jmpz0, .balz0]) ∨
    (s.c = 0 ∧ i ∈ [Instr.loopinc n, .loopincW n, .loopdec n, .loopdecW n])

/-- The instruction may end a macro in this state (R393). -/
def MayEndMacro (i : Instr) (s : State) : Prop := ¬IsPrefix i ∧ ¬NeverEndsMacro i ∧ ¬Branches i s

/-- What follows an instruction that answered `t` (R101 steps 7 and 8): NUMP.n is cleared unless it is NUM, WORDP unless
it is WORD or WORDX, OPMSBP unless it is OPMSB, PMEMP always (PMEMACC has no encoding), and MF if it ends a macro; nothing else
changes. -/
def Retires (i : Instr) (ends : Prop) (t w : State) : Prop :=
  w = { t with numN := w.numN, wordK := w.wordK, opmsbP := w.opmsbP, pmemP := false, mf := w.mf } ∧
  ((∃ n, i = .num n) → w.numN = t.numN) ∧ ((∀ n, i ≠ .num n) → w.numN = .zero) ∧
  ((∃ o, i = .word o ∨ i = .wordx o) → w.wordK = t.wordK) ∧ ((∀ o, i ≠ .word o ∧ i ≠ .wordx o) → w.wordK = .none) ∧
  (i = .opmsb → w.opmsbP = t.opmsbP) ∧ (i ≠ .opmsb → w.opmsbP = false) ∧
  (ends → w.mf = false) ∧ (¬ends → w.mf = t.mf)

/-- The step of `s` is the instruction's meaning in the state `v`, then what it retires. -/
def StepIs (i : Instr) (ends : Prop) (s v : State) : Prop :=
  (∀ t, exec i v = .next t → ∃ w, step s = .next w ∧ Retires i ends t w) ∧
  (∀ f, exec i v = .fault f → step s = .fault f) ∧
  (∀ r, exec i v = .refused r → step s = .refused r)

/-! ## Frames -/

/-- No byte of memory differs outside the physical addresses listed. -/
def MemoryKeptOutside (ps : List Nat) (s t : State) : Prop :=
  ∀ p, p ∉ ps → t.mem.read p = s.mem.read p

end Sys2Proof.Machine
end

