-- ==== Sys2Proof/Certificates/Slice0/Obligations.lean ====
section
/-! DEFINITION. The statements for the provers. `exec i s` is the meaning of `i` in a state whose active counter already holds
`next` (R28); `step` is one step of the machine (R101). -/

section Statements

open Sys2Proof Sys2Proof.Machine

/-! ## Decoding -/

/-- Decoding the encoding of a well-formed instruction, in the context its words stand in, gives it back, and leaves the
bytes after it. -/
def Obligations.DecodeInvertsEncode : Prop :=
  ∀ (i : Instr) (rest : List Byte), i.wf = true → decode i.context (encodeBytes i ++ rest) = .ok (i, rest)

/-- With no OPMSB pending and outside millicode, whatever the decoder reads is well formed and encodes to the very bytes it
was read from: no bit of an instruction is dropped. A pending OPMSB reads an ordinary word as the same word with bit 15 set,
LD X so becoming LD.T with its second word (the spec's decisions D3, D4, D18); only the word of OPMSB itself stays OPMSB, the
others of OP 01 being reserved (D22); a word with bit 15 set and a hard macro are read as without it. In millicode a word with
bit 14 set is read as the ordinary word with that bit clear (D28), the others as outside it. -/
def Obligations.EncodeInvertsDecode : Prop :=
  (∀ (num word : Bool) (bytes : List Byte) (i : Instr) (rest : List Byte),
    decode { opmsb := false, num := num, word := word, millicode := false } bytes = .ok (i, rest) →
      i.wf = true ∧ encodeBytes i ++ rest = bytes) ∧
  (∀ (num word millicode : Bool) (b0 b1 : Byte) (rest : List Byte),
    let plain : DecodeCtx := { opmsb := false, num := num, word := word, millicode := millicode }
    let prefixed : DecodeCtx := { opmsb := true, num := num, word := word, millicode := millicode }
    let ordinary : Prop := b1.getLsbD 6 = false ∨ millicode = true
    (ordinary → b1.getLsbD 7 = false → b1.extractLsb' 0 6 ≠ 0x01 →
      decode prefixed (b0 :: b1 :: rest) = decode plain (b0 :: (b1 ||| 0x80) :: rest)) ∧
    (ordinary → b1.getLsbD 7 = false → b1.extractLsb' 0 6 = 0x01 →
      decode prefixed (b0 :: b1 :: rest) = .ok (if b0 = 0xEF then .opmsb else .reservedOpmsb 0x01 b0, rest)) ∧
    (¬ordinary ∨ b1.getLsbD 7 = true → decode prefixed (b0 :: b1 :: rest) = decode plain (b0 :: b1 :: rest)) ∧
    ∀ n hh uu : Byte, decode prefixed (n :: 0x0B :: hh :: uu :: rest) = .ok (.ldT (uu ++ hh ++ n), rest)) ∧
  (∀ (opmsb num word : Bool) (b0 b1 : Byte) (rest : List Byte),
    let outside : DecodeCtx := { opmsb := opmsb, num := num, word := word, millicode := false }
    let inside : DecodeCtx := { opmsb := opmsb, num := num, word := word, millicode := true }
    (b1.getLsbD 6 = true → decode inside (b0 :: b1 :: rest) = decode outside (b0 :: (b1 &&& 0xBF) :: rest)) ∧
    (b1.getLsbD 6 = false → decode inside (b0 :: b1 :: rest) = decode outside (b0 :: b1 :: rest)))

/-- One word of each family, written out from its rule's encoding, decodes to its instruction. -/
def Obligations.SampleWordsDecode : Prop :=
  decodeTableWord 16 0x0183 = some .swapAB ∧
  decodeTableWord 16 0x0E05 = some (.addAn 5) ∧
  decodeTableWord 32 0x12348B56 = some (.ldT 0x123456) ∧
  decodeTableWord 16 0x9010 = some (.ldWA (.dir 16)) ∧
  decodeTableWord 16 0x1081 = some (.ldA (.mb 1)) ∧
  decodeTableWord 16 0x157F = some .andAC ∧
  decodeTableWord 16 0x20FF = some (.jrN 0xFF) ∧
  decodeTableWord 16 0xA580 = some (.balMB 0) ∧
  decodeTableWord 16 0x29FE = some (.zero .x) ∧
  decodeTableWord 16 0x3A7F = some (.addM .ab) ∧
  decodeTableWord 16 0xBC7C = some .decWKeep ∧
  decodeTableWord 16 0x4A05 = some (.hardMacro false 0x0A 5) ∧
  decodeTableWord 16 0x0188 = some (.reservedG false 0x01 0x88)

/-! ## The step -/

/-- Where no interrupt is due and the pending prefixes allow the instruction decoded at the active counter, which may end a
macro if its word ends one, a step is the instruction's meaning in the state whose counter has moved past its words; then
NUMP.n is cleared unless it is NUM, WORDP unless it is WORD or WORDX, OPMSBP unless it is OPMSB, PMEMP always, and MF if its word
ends a macro. Outside the program area the fetch faults, of the first word and of the second of LD.T. The bytes' order, the
length, the active counter, what the prefixes allow and the end of a macro are the spec's decisions D1, D3, D27, D38 (log 18)
and D28. -/
def Obligations.StepRunsTheDecodedInstruction : Prop :=
  ∀ s u : State, u = takeRequests s → NoInterruptDue u →
    (∀ (bytes rest : List Byte) (i : Instr),
      BytesAtCounter u bytes → decode (contextOf u) bytes = .ok (i, rest) → PrefixesAllow i u →
      (EndsMacro u bytes → MayEndMacro i u) →
      StepIs i (EndsMacro u bytes) s (advance bytes.length u)) ∧
    (programEnd u ≤ firstAt u + 1 → step s = .fault .noMemory) ∧
    (TwoWordsAtCounter u → programEnd u ≤ secondAt u + 1 → step s = .fault .noMemory)

/-- The counter moves past an instruction of `n` bytes: it alone changes, and goes `n` on, cut to its width. -/
def Obligations.CounterAdvances : Prop :=
  ∀ (s : State) (n : Nat), s.cfg.wf = true → MovesTo ((activeCounter s).toNat + n) s (advance n s)

/-- What pending prefixes and the end of a macro do to a step (the spec's decisions D22, D28, D38; logs 18 and 23). A hard macro
with a prefix pending, NUM before an instruction that is no immediate, WORD before one without a `W:` row (the rows on register
C being reserved there, after WORDX by the model's choice, log 32), and PMEMACC before one without a data access fault. A word
with bit 14 set that ends a macro may not be a prefix, nor SETMC, SETFLAG, INT or a branch taken: the step faults; every other
instruction, among them a branch not taken, a loop that falls through and SETPC, runs and ends the macro. -/
def Obligations.MacroEndRefusesBranchesAndPrefixes : Prop :=
  ∀ (s u : State) (bytes rest : List Byte) (i : Instr),
    u = takeRequests s → NoInterruptDue u → BytesAtCounter u bytes → decode (contextOf u) bytes = .ok (i, rest) →
    (EntersMacro i → u.inInt = false → ¬NonePending u → step s = .fault .prefixMisuse) ∧
    (¬HasNoMeaning i → ¬EntersMacro i →
      (u.numN ≠ .zero → ¬ConsumesNum i → step s = .fault .prefixMisuse) ∧
      (u.numN = .zero → u.wordK ≠ .none → OnRegisterC i → step s = .fault .reservedG) ∧
      (u.wordK ≠ .none → ¬ConsumesWord i → ¬OnRegisterC i → step s = .fault .prefixMisuse) ∧
      (u.pmemP = true → u.wordK = .none → ¬AccessesData i → step s = .fault .prefixMisuse)) ∧
    (PrefixesAllow i u → EndsMacro u bytes →
      (IsPrefix i → step s = .fault .prefixMisuse) ∧
      (NeverEndsMacro i ∨ Branches i u → step s = .fault .macroEndInstr) ∧
      (MayEndMacro i u → StepIs i True s (advance bytes.length u)) ∧
      (i = .setpc ∨ FallsThrough i u → MayEndMacro i u ∧ ∃ w, step s = .next w ∧ w.mf = false ∧ w.inInt = false))

/-! ## Reset, invariants, whole-machine rules -/

/-- After reset: PC is 0, no macro and no interrupt runs, system mode, offset 0, interrupts disabled, no cause pending, no
prefix pending. -/
def Obligations.ResetIsQuiet : Prop :=
  State.reset.pc = 0 ∧ activeCounter State.reset = 0 ∧
  State.reset.mf = false ∧ State.reset.uf = false ∧ State.reset.off = 0 ∧
  State.reset.ae = false ∧ State.reset.tm = false ∧ State.reset.ef = false ∧ State.reset.inInt = false ∧
  State.reset.int0 = false ∧ State.reset.int1 = false ∧
  State.reset.numN = .zero ∧ State.reset.wordK = .none ∧ State.reset.opmsbP = false ∧ State.reset.pmemP = false

/-- The invariant holds after reset, at the parameters and the memory the model starts with (logs 1 and 3). -/
def Obligations.ResetMeetsInvariant : Prop := Inv State.reset

/-- Every step keeps the invariant. -/
def Obligations.StepKeepsInvariant : Prop :=
  ∀ s t : State, Inv s → step s = .next t → Inv t

/-- No step changes the parameters. -/
def Obligations.StepKeepsParameters : Prop :=
  ∀ s t : State, step s = .next t → t.cfg = s.cfg

/-- Interrupt entry and RETI leave EF as it is; of the instructions only ENABLE and DISABLE change it. -/
def Obligations.OnlyEnableAndDisableChangeEF : Prop :=
  (∀ (k : BitVec 4) (s : State), (enterInterrupt k s).ef = s.ef) ∧
  (∀ (m : Fin 126) (s t : State), exec (.reti m) s = .next t → t.ef = s.ef) ∧
  (∀ (i : Instr) (s t : State), exec i s = .next t → i ≠ .enable → i ≠ .disable → t.ef = s.ef)

/-- Only RETI leaves an interrupt, and only INT enters one from an instruction. -/
def Obligations.OnlyRetiLeavesAnInterrupt : Prop :=
  ∀ (i : Instr) (s t : State), exec i s = .next t →
    (s.inInt = true → t.inInt = false → ∃ m, i = .reti m) ∧
    (s.inInt = false → t.inInt = true → ∃ k, i = .int k)

/-- PC, MC and IC are separate: an instruction changes only the counter in use, but for SETPC, SETMC, INT and the entry of a hard
macro. -/
def Obligations.OnlyTheActiveCounterMoves : Prop :=
  ∀ (i : Instr) (s t : State), exec i s = .next t →
    (s.inInt = true ∨ s.mf = true → i ≠ .setpc → t.pc = s.pc) ∧
    (s.inInt = true ∨ s.mf = false → i ≠ .setmc → (∀ e op g, i ≠ .hardMacro e op g) → t.mc = s.mc) ∧
    (s.inInt = false → (∀ k, i ≠ .int k) → t.ic = s.ic)

/-- A pending cause stays pending until its CLEAR: CLEAR 1 for AE, CLEAR 0 and CLEAR 15 for the external latches. -/
def Obligations.OnlyClearDropsACause : Prop :=
  ∀ (i : Instr) (s t : State), exec i s = .next t →
    (s.ae = true → t.ae = false → i = .clear 1) ∧
    (s.int0 = true → t.int0 = false → i = .clear 0) ∧
    (s.int1 = true → t.int1 = false → i = .clear 15)

/-! ## Interrupts -/

/-- With interrupts enabled, none running and no prefix pending, the first pending cause in the order INT0, access
violation, INT1 is entered: IF is set, IC is the vector, nothing else changes (the place of the access violation is the spec's
decision D20). -/
def Obligations.InterruptEntryByPriority : Prop :=
  ∀ s u : State, u = takeRequests s → s.cfg.wf = true → s.ef = true → s.inInt = false → NonePending s →
    (u.int0 = true → step s = .next { u with inInt := true, ic := 32 }) ∧
    (u.int0 = false → u.cfg.userMode = true → u.ae = true → step s = .next { u with inInt := true, ic := 34 }) ∧
    (u.int0 = false → (u.cfg.userMode && u.ae) = false → u.int1 = true → step s = .next { u with inInt := true, ic := 62 })

/-- While an interrupt runs, while EF is 0, while a prefix is pending and while no cause is pending no interrupt is taken: the
step fetches and runs the next instruction. -/
def Obligations.NoInterruptWhileHeldOff : Prop :=
  ∀ s : State, NoInterruptDue (takeRequests s) → step s = runNext (takeRequests s)

/-- INT k enters the interrupt whatever EF is; in an interrupt it faults. -/
def Obligations.SoftwareInterrupt : Prop :=
  ∀ (k : BitVec 4) (s : State),
    (s.inInt = true → exec (.int k) s = .fault .intInInterrupt) ∧
    (s.inInt = false → s.cfg.wf = true →
      exec (.int k) s = .next { s with inInt := true, ic := BitVec.ofNat 17 (k.toNat * 2 + 32) })

/-- SETFLAG loads the flag register from the byte read, bits 5 and 6 dropped (the spec's decision D26), UF where the user mode
exists (R33); outside an interrupt it faults on a byte that would change MF (D37). A byte the user mode refuses is free, and is
loaded or faults the same way (D21, log 5); an absent one faults. -/
def Obligations.SetflagLoadsTheFlags : Prop :=
  ∀ (o : Operand) (s : State), ReadsByteThen o s (exec (.setflag o) s) fun v t =>
    (s.inInt = false → v.getLsbD 1 ≠ s.mf → exec (.setflag o) s = .fault .setflagMf) ∧
    (s.inInt = true ∨ v.getLsbD 1 = s.mf →
      exec (.setflag o) s = .next { t with
        zf := v.getLsbD 0, mf := v.getLsbD 1, off := v.extractLsb' 3 2, cf := v.getLsbD 7
        uf := if s.cfg.userMode then v.getLsbD 2 else s.uf })

/-- RETI loads the flag register from the byte at data address m, with offset 0, leaves the interrupt and changes nothing else
(the spec's decision D37); it faults where that byte does not exist, and outside an interrupt. UF is loaded where the user mode
exists (R33). -/
def Obligations.RetiLoadsTheFlagsAndReturns : Prop :=
  ∀ (m : Fin 126) (s : State),
    let p := physical s (BitVec.ofNat 24 m.val)
    (s.inInt = false → exec (.reti m) s = .fault .retiOutsideInterrupt) ∧
    (s.inInt = true → s.cfg.memBytes ≤ p → exec (.reti m) s = .fault .noMemory) ∧
    (s.inInt = true → p < s.cfg.memBytes →
      let v := s.mem.read p
      exec (.reti m) s = .next { s with
        zf := v.getLsbD 0, mf := v.getLsbD 1, off := v.extractLsb' 3 2, cf := v.getLsbD 7
        uf := if s.cfg.userMode then v.getLsbD 2 else s.uf
        inInt := false })

/-- CLEAR 0, 1 and 15 clear the latch of INT0, AE and the latch of INT1; the others have no effect. -/
def Obligations.ClearDropsItsCause : Prop :=
  ∀ s : State,
    exec (.clear 0) s = .next { s with int0 := false } ∧
    exec (.clear 1) s = .next { s with ae := false } ∧
    exec (.clear 15) s = .next { s with int1 := false } ∧
    (∀ k : BitVec 4, k ≠ 0 → k ≠ 1 → k ≠ 15 → exec (.clear k) s = .next s)

/-! ## OP 00 and OP 01 -/

/-- The register transfers among A, B and C: all right sides are the old values. -/
def Obligations.RegisterTransfers : Prop :=
  ∀ s : State,
    exec .ldAB s = .next { s with a := s.b } ∧
    exec .ldBA s = .next { s with b := s.a } ∧
    exec .swapAB s = .next { s with a := s.b, b := s.a } ∧
    exec .ldCA s = .next { s with c := s.a } ∧
    exec .ldABCA s = .next { s with a := s.b, c := s.a } ∧
    exec .ldBACA s = .next { s with b := s.a, c := s.a } ∧
    exec .ldABBACA s = .next { s with a := s.b, b := s.a, c := s.a } ∧
    exec .ldAC s = .next { s with a := s.c } ∧
    exec .ldBC s = .next { s with b := s.c } ∧
    exec .ldACBC s = .next { s with a := s.c, b := s.c } ∧
    exec .ldCB s = .next { s with c := s.b } ∧
    exec .ldACCB s = .next { s with a := s.c, c := s.b } ∧
    exec .swapBC s = .next { s with b := s.c, c := s.b } ∧
    exec .ldACBCCB s = .next { s with a := s.c, b := s.c, c := s.b }

/-- The sixteen steps of B and X by one and by two, each modulo its width; no flag changes. -/
def Obligations.StepsOfBAndX : Prop :=
  ∀ s : State,
    exec .incB s = .next { s with b := s.b + 1 } ∧
    exec .incX s = .next { s with x := s.x + 1 } ∧
    exec .incBX s = .next { s with b := s.b + 1, x := s.x + 1 } ∧
    exec .incBXm s = .next { s with b := s.b + 1, x := s.x - 1 } ∧
    exec .dincB s = .next { s with b := s.b + 2 } ∧
    exec .dincX s = .next { s with x := s.x + 2 } ∧
    exec .dincBX s = .next { s with b := s.b + 2, x := s.x + 2 } ∧
    exec .dincBXm s = .next { s with b := s.b + 2, x := s.x - 2 } ∧
    exec .decB s = .next { s with b := s.b - 1 } ∧
    exec .decX s = .next { s with x := s.x - 1 } ∧
    exec .decBX s = .next { s with b := s.b - 1, x := s.x - 1 } ∧
    exec .decBXp s = .next { s with b := s.b - 1, x := s.x + 1 } ∧
    exec .ddecB s = .next { s with b := s.b - 2 } ∧
    exec .ddecX s = .next { s with x := s.x - 2 } ∧
    exec .ddecBX s = .next { s with b := s.b - 2, x := s.x - 2 } ∧
    exec .ddecBXp s = .next { s with b := s.b - 2, x := s.x + 2 }

/-- The operations on the pair AB, A its high half, modulo 2^32 (the spec's decisions D10, D43, D44); SETPC and SETMC write
AB × 2 cut to the counter's width; LD X takes the low 24 bits of AB or AC; NIBBLE (D14), CLC and NOP. -/
def Obligations.PairAndCounterOperations : Prop :=
  ∀ s : State, s.cfg.wf = true →
    let ab := s.a.toNat * 65536 + s.b.toNat
    let withAB := fun (n : Nat) => Host.Outcome.next (ρ := Refusal) (φ := Fault)
      { s with a := BitVec.ofNat 16 (n / 65536), b := BitVec.ofNat 16 n }
    exec .addABC s = withAB (ab + s.c.toNat) ∧
    exec .wshl s = withAB (2 * ab) ∧
    exec .addABXC s = withAB (ab + (activeCounter s).toNat / 2) ∧
    exec .getpc s = withAB (s.pc.toNat / 2) ∧
    exec .getmc s = withAB (s.mc.toNat / 2) ∧
    exec .setpc s = .next { s with pc := BitVec.ofNat 25 (2 * ab % 2 ^ s.cfg.pcBits) } ∧
    exec .setmc s = .next { s with mc := BitVec.ofNat 17 (2 * ab % 2 ^ s.cfg.mcBits) } ∧
    exec .nibble s = .next { s with
      a := BitVec.ofNat 16 (s.c.toNat % 16), b := BitVec.ofNat 16 (s.c.toNat / 16 % 16) } ∧
    exec .ldXAB s = .next { s with x := BitVec.ofNat 24 (s.a.toNat * 65536 + s.b.toNat) } ∧
    exec .ldXAC s = .next { s with x := BitVec.ofNat 24 (s.a.toNat * 65536 + s.c.toNat) } ∧
    exec .clc s = .next { s with cf := false } ∧
    exec .nop s = .next s

/-- MUL is the unsigned product into C:A; MULX adds the word at direct address 0, the high half going back there and the low half
to A, with the word's accesses as they may come out (byte order D2; a byte of the next word D24, log 17); without the option both
fault (the spec's decision D15). -/
def Obligations.Multiplication : Prop :=
  ∀ s : State,
    (s.cfg.hasMul = true → exec .mul s = .next { s with
      c := BitVec.ofNat 16 (s.a.toNat * s.c.toNat / 65536), a := BitVec.ofNat 16 (s.a.toNat * s.c.toNat) }) ∧
    (s.cfg.hasMul = false → exec .mul s = .fault .optionAbsent) ∧
    (s.cfg.hasMul = true → storableWord (.dir 0) s = true →
      let p := s.a.toNat * s.c.toNat + (wordAtData (ea (.dir 0) s) s).toNat
      exec .mulx s = .next { putWord (ea (.dir 0) s) (BitVec.ofNat 16 (p / 65536)) s with a := BitVec.ofNat 16 p }) ∧
    (s.cfg.hasMul = true → ReadsWordThen (.dir 0) s (exec .mulx s) fun m t =>
      let p := s.a.toNat * s.c.toNat + m.toNat
      StoresEach false (exec .mulx s) (fun w => { w with a := BitVec.ofNat 16 p })
        (wordCells (ea (.dir 0) s) (BitVec.ofNat 16 (p / 65536))) t) ∧
    (s.cfg.hasMul = false → exec .mulx s = .fault .optionAbsent)

/-- The mode, offset, CPUINFO, interrupt enable, status and OPMSB instructions. -/
def Obligations.SystemRegisters : Prop :=
  ∀ s : State,
    (∀ k : BitVec 1, s.cfg.userMode = true → exec (.usermode k) s = .next { s with uf := k.getLsbD 0 }) ∧
    (∀ k : BitVec 1, s.cfg.userMode = false → exec (.usermode k) s = .fault .optionAbsent) ∧
    (∀ k : BitVec 2, exec (.offset k) s = .next { s with off := k }) ∧
    exec .cpuinforst s = .next { s with cpuinfoAddr := 0 } ∧
    exec .cpuinfoinc s = .next { s with cpuinfoAddr := s.cpuinfoAddr + 16 } ∧
    exec .cpuinfoget s = .next { s with
      a := BitVec.ofNat 16 (2 * s.a.toNat + (Config.cpuinfo s.cpuinfoAddr).toNat), cpuinfoAddr := s.cpuinfoAddr + 1 } ∧
    exec .disable s = .next { s with ef := false } ∧
    exec .enable s = .next { s with ef := true } ∧
    exec .getstat s = .next { s with
      a := BitVec.ofNat 16 (128 * s.ef.toNat + (s.cfg.userMode && s.ae).toNat) } ∧
    exec .opmsb s = .next { s with opmsbP := true }

/-- BYTESWAP exchanges the bytes of the registers its bits select under the map of the implementation; with no bit set
it changes nothing under any map. The map is a parameter, the model's choice for what the spec leaves open (log 9). -/
def Obligations.ByteswapSwapsSelectedRegisters : Prop :=
  ∀ s : State,
    exec (.byteswap 0) s = .next s ∧
    ∀ r : BitVec 4,
      let m := s.cfg.byteswap
      let swap := fun v : Word => BitVec.ofNat 16 (v.toNat % 256 * 256 + v.toNat / 256)
      let lo := s.x.extractLsb' 0 8
      let mid := s.x.extractLsb' 8 8
      let hi := s.x.extractLsb' 16 8
      exec (.byteswap r) s = .next { s with
        a := if r.getLsbD m.bitA.val then swap s.a else s.a
        b := if r.getLsbD m.bitB.val then swap s.b else s.b
        c := if r.getLsbD m.bitC.val then swap s.c else s.c
        x := if r.getLsbD m.bitX.val then
            match m.xBytes with
            | .lowMid => hi ++ lo ++ mid
            | .lowHigh => lo ++ mid ++ hi
            | .midHigh => mid ++ hi ++ lo
          else s.x }

/-- The port instructions on registers, 16 bits wide (the spec's decision D25), with an answer of the platform standing ready and
without one, the value read being then free; OUT sends the byte of its operand, free where the user mode refuses it (D21, log 5),
and CF and ZF take two free bits (D36). The list of answers, the log of transfers and the count of free values are the model's
own (logs 4, 6 and 13). -/
def Obligations.PortTransfers : Prop :=
  ∀ s : State,
    exec .outputb s = .next { s with ioLog := .output s.c 2 s.b :: s.ioLog } ∧
    (∀ (v : Word) (rest : List Word), s.inputs = v :: rest →
      exec .inputa s = .next { s with a := v, inputs := rest, ioLog := .input s.c 2 v :: s.ioLog } ∧
      exec .inout s = .next { s with
        a := v, inputs := rest, ioLog := .input s.c 2 v :: .output s.c 2 s.b :: s.ioLog }) ∧
    (s.inputs = [] →
      let v := Config.ioInput s.draws s.c
      exec .inputa s = .next { s with a := v, draws := s.draws + 1, ioLog := .input s.c 2 v :: s.ioLog } ∧
      exec .inout s = .next { s with
        a := v, draws := s.draws + 1, ioLog := .input s.c 2 v :: .output s.c 2 s.b :: s.ioLog }) ∧
    ∀ o : Operand, ReadsByte o s (exec (.out o) s) (fun v t =>
      { t with
        ioLog := .output s.c 1 (v.setWidth 16) :: s.ioLog
        cf := Config.drawBit t.draws, zf := Config.drawBit (t.draws + 1), draws := t.draws + 2 })

/-! ## Flag rules -/

/-- Addition with carry at any width: the sum cut to the width, the carry out, the zero of the cut sum. Subtraction with
borrow: the difference as an integer modulo the width, the borrow out, the zero of the result (the spec's decisions D7, D8). -/
def Obligations.ArithmeticFlags : Prop :=
  ∀ (w : Nat) (u v : BitVec w) (c : Bool),
    (addC u v c).val.toNat = (u.toNat + v.toNat + c.toNat) % 2 ^ w ∧
    (addC u v c).cf = some (decide (2 ^ w ≤ u.toNat + v.toNat + c.toNat)) ∧
    (addC u v c).zf = some (decide ((u.toNat + v.toNat + c.toNat) % 2 ^ w = 0)) ∧
    ((subB u v c).val.toNat : Int) = ((u.toNat : Int) - v.toNat - c.toNat) % (2 ^ w : Nat) ∧
    (subB u v c).cf = some (decide (u.toNat < v.toNat + c.toNat)) ∧
    (subB u v c).zf = some (decide ((subB u v c).val.toNat = 0))

/-- A logical result sets ZF when it is zero and leaves CF; the decrement that keeps CF does the same. -/
def Obligations.LogicFlags : Prop :=
  ∀ (w : Nat) (r : BitVec w),
    (logic r).val = r ∧ (logic r).cf = none ∧ (logic r).zf = some (decide (r.toNat = 0)) ∧
    (decKeepCF r).val = r - 1 ∧ (decKeepCF r).cf = none ∧ (decKeepCF r).zf = some (decide ((r - 1).toNat = 0))

/-- The shifts by one at both widths: the bit shifted in, the bit shifted out to CF, ZF left alone. -/
def Obligations.ShiftFlags : Prop :=
  (∀ (v : Byte) (fill : Bool),
    shiftLeft v fill = { val := v.extractLsb' 0 7 ++ BitVec.ofBool fill, cf := some (v.getLsbD 7), zf := none } ∧
    shiftRight v fill = { val := BitVec.ofBool fill ++ v.extractLsb' 1 7, cf := some (v.getLsbD 0), zf := none }) ∧
  (∀ (v : Word) (fill : Bool),
    shiftLeft v fill = { val := v.extractLsb' 0 15 ++ BitVec.ofBool fill, cf := some (v.getLsbD 15), zf := none } ∧
    shiftRight v fill = { val := BitVec.ofBool fill ++ v.extractLsb' 1 15, cf := some (v.getLsbD 0), zf := none })

/-! ## OP 04 to 0F -/

/-- The immediate loads without a NUM: the immediate zero-extended to the register, no flag. -/
def Obligations.LoadImmediates : Prop :=
  ∀ (n : Byte) (s : State),
    exec (.ldAn n) s = .next { s with a := BitVec.ofNat 16 n.toNat } ∧
    exec (.ldBn n) s = .next { s with b := BitVec.ofNat 16 n.toNat } ∧
    exec (.ldCn n) s = .next { s with c := BitVec.ofNat 16 n.toNat } ∧
    exec (.ldXn n) s = .next { s with x := BitVec.ofNat 24 n.toNat }

/-- The logic and addition on A of an immediate without a NUM, zero-extended, logic writing Z, addition C and Z of the 16-bit
result (the spec's decisions D6, D7); LD.T takes its 24 bits. -/
def Obligations.PlainImmediates : Prop :=
  ∀ (n : Byte) (s : State),
    exec (.andAn n) s = .next (withAcc (logic (s.a &&& n.setWidth 16)) s) ∧
    exec (.xorAn n) s = .next (withAcc (logic (s.a ^^^ n.setWidth 16)) s) ∧
    exec (.orAn n) s = .next (withAcc (logic (s.a ||| n.setWidth 16)) s) ∧
    (∀ nnn : Triple, exec (.ldT nnn) s = .next { s with x := nnn }) ∧
    exec (.addAn n) s = .next (withAcc (addC s.a (n.setWidth 16) false) s) ∧
    exec (.addcAn n) s = .next (withAcc (addC s.a (n.setWidth 16) s.cf) s)

/-- NUM shifts its operand into the prefix, once and twice, and a third faults. After one NUM its operand is the high byte of a
16-bit immediate; after two LD X takes 24 bits and the instructions with a 16-bit destination fault. -/
def Obligations.NumPrefixAndItsImmediates : Prop :=
  ∀ (n : Byte) (s : State),
    (s.numN = .one →
      let imm : Word := s.numV.extractLsb' 0 8 ++ n
      exec (.nAndAnn n) s = .next (withAcc (logic (s.a &&& imm)) s) ∧
      exec (.nXorAnn n) s = .next (withAcc (logic (s.a ^^^ imm)) s) ∧
      exec (.nOrAnn n) s = .next (withAcc (logic (s.a ||| imm)) s) ∧
      exec (.nLdAnn n) s = .next { s with a := imm } ∧
      exec (.nLdBnn n) s = .next { s with b := imm } ∧
      exec (.nLdCnn n) s = .next { s with c := imm } ∧
      exec (.nLdXnn n) s = .next { s with x := imm.setWidth 24 } ∧
      exec (.nAddAnn n) s = .next (withAcc (addC s.a imm false) s) ∧
      exec (.nAddcAnn n) s = .next (withAcc (addC s.a imm s.cf) s)) ∧
    (s.numN = .zero → exec (.num n) s = .next { s with numV := s.numV.extractLsb' 0 8 ++ n, numN := .one }) ∧
    (s.numN = .one → exec (.num n) s = .next { s with numV := s.numV.extractLsb' 0 8 ++ n, numN := .two }) ∧
    (s.numN = .two →
      exec (.num n) s = .fault .prefixMisuse ∧
      exec (.nLdXnn n) s = .next { s with x := s.numV ++ n } ∧
      exec (.nAndAnn n) s = .fault .prefixMisuse ∧ exec (.nXorAnn n) s = .fault .prefixMisuse ∧
      exec (.nOrAnn n) s = .fault .prefixMisuse ∧ exec (.nLdAnn n) s = .fault .prefixMisuse ∧
      exec (.nLdBnn n) s = .fault .prefixMisuse ∧ exec (.nLdCnn n) s = .fault .prefixMisuse ∧
      exec (.nAddAnn n) s = .fault .prefixMisuse ∧ exec (.nAddcAnn n) s = .fault .prefixMisuse)

/-! ## OP 10 to 1F -/

/-- The byte loads, in every addressing form: the byte zero-extended; refused in user mode below the limit; no such byte. -/
def Obligations.ByteLoads : Prop :=
  ∀ (o : Operand) (s : State),
    ReadsByte o s (exec (.ldA o) s) (fun v t => { t with a := v.setWidth 16 }) ∧
    ReadsByte o s (exec (.ldB o) s) (fun v t => { t with b := v.setWidth 16 }) ∧
    ReadsByte o s (exec (.ldC o) s) (fun v t => { t with c := v.setWidth 16 }) ∧
    ReadsByte o s (exec (.ldX o) s) (fun v t => { t with x := v.setWidth 24 })

/-- The word loads: the little-endian word at an even address, a fault at an odd one; LD.W X where it is built, and its
fault where it is not; WORD and WORDX, which read the word into their prefix. -/
def Obligations.WordLoadsAndPrefixes : Prop :=
  ∀ (o : Operand) (s : State),
    ReadsWord o s (exec (.ldWA o) s) (fun v t => { t with a := v }) ∧
    ReadsWord o s (exec (.ldWB o) s) (fun v t => { t with b := v }) ∧
    ReadsWord o s (exec (.ldWC o) s) (fun v t => { t with c := v }) ∧
    (s.cfg.hasLdWX = true → ReadsWord o s (exec (.ldWX o) s) (fun v t => { t with x := v.setWidth 24 })) ∧
    (s.cfg.hasLdWX = false → exec (.ldWX o) s = .fault .notImplemented) ∧
    ReadsWord o s (exec (.word o) s) (fun v t => { t with wordV := v, wordG := o.toByte, wordK := .word }) ∧
    ReadsWord o s (exec (.wordx o) s) (fun v t => { t with wordV := v, wordG := o.toByte, wordK := .wordx })

/-- The accumulator operations on a byte of memory, zero-extended, in every addressing form. -/
def Obligations.AccumulatorByteOperations : Prop :=
  ∀ (o : Operand) (s : State),
    ReadsByte o s (exec (.andA o) s) (fun v t => withAcc (logic (s.a &&& v.setWidth 16)) t) ∧
    ReadsByte o s (exec (.xorA o) s) (fun v t => withAcc (logic (s.a ^^^ v.setWidth 16)) t) ∧
    ReadsByte o s (exec (.orA o) s) (fun v t => withAcc (logic (s.a ||| v.setWidth 16)) t) ∧
    ReadsByte o s (exec (.addA o) s) (fun v t => withAcc (addC s.a (v.setWidth 16) false) t) ∧
    ReadsByte o s (exec (.addcA o) s) (fun v t => withAcc (addC s.a (v.setWidth 16) s.cf) t) ∧
    ReadsByte o s (exec (.subA o) s) (fun v t => withAcc (subB s.a (v.setWidth 16) false) t) ∧
    ReadsByte o s (exec (.subcA o) s) (fun v t => withAcc (subB s.a (v.setWidth 16) s.cf) t)

/-- The accumulator operations on register C. -/
def Obligations.AccumulatorRegisterOperations : Prop :=
  ∀ s : State,
    exec .andAC s = .next (withAcc (logic (s.a &&& s.c)) s) ∧
    exec .xorAC s = .next (withAcc (logic (s.a ^^^ s.c)) s) ∧
    exec .orAC s = .next (withAcc (logic (s.a ||| s.c)) s) ∧
    exec .addAC s = .next (withAcc (addC s.a s.c false) s) ∧
    exec .addcAC s = .next (withAcc (addC s.a s.c s.cf) s) ∧
    exec .subAC s = .next (withAcc (subB s.a s.c false) s) ∧
    exec .subcAC s = .next (withAcc (subB s.a s.c s.cf) s)

/-- After a WORD with the same operand (the spec's decision D17) the accumulator operations take the word it read, their flags
by D7 and D8, and LD X puts above it the byte at the address with bit 1 set, the address being a multiple of 4; that byte may be
refused, and is then free (D21, log 5), or absent; with another operand they fault. After a WORDX, with whatever operand, the
operand is a free function of the word it read and of the byte at the consumer's own operand, read as any byte is: what
WORDX_COMBINE is the spec leaves open (D17), and that this is its form is the model's choice (log 10). -/
def Obligations.ConsumersOfWord : Prop :=
  ∀ (o : Operand) (s : State),
    (s.wordK = .word →
      (o.toByte = s.wordG →
        exec (.wAndA o) s = .next (withAcc (logic (s.a &&& s.wordV)) s) ∧
        exec (.wXorA o) s = .next (withAcc (logic (s.a ^^^ s.wordV)) s) ∧
        exec (.wOrA o) s = .next (withAcc (logic (s.a ||| s.wordV)) s) ∧
        exec (.wAddA o) s = .next (withAcc (addC s.a s.wordV false) s) ∧
        exec (.wAddcA o) s = .next (withAcc (addC s.a s.wordV s.cf) s) ∧
        exec (.wSubA o) s = .next (withAcc (subB s.a s.wordV false) s) ∧
        exec (.wSubcA o) s = .next (withAcc (subB s.a s.wordV s.cf) s)) ∧
      (o.toByte = s.wordG → notFour (ea o s) = true → exec (.wLdX o) s = .fault .misaligned) ∧
      (o.toByte = s.wordG → notFour (ea o s) = false →
        ReadsByteAtThen (restricted o) (ea o s + 2) s (exec (.wLdX o) s) fun v t =>
          exec (.wLdX o) s = .next { t with x := v ++ s.wordV }) ∧
      (o.toByte ≠ s.wordG → ∀ i ∈ [Instr.wAndA o, .wXorA o, .wOrA o, .wAddA o, .wAddcA o, .wSubA o, .wSubcA o, .wLdX o],
        exec i s = .fault .wordOperandMismatch)) ∧
    (s.wordK = .wordx →
      let op := fun v : Byte => Config.wordxOperand s.wordV v
      ReadsByte o s (exec (.wAndA o) s) (fun v t => withAcc (logic (s.a &&& op v)) t) ∧
      ReadsByte o s (exec (.wXorA o) s) (fun v t => withAcc (logic (s.a ^^^ op v)) t) ∧
      ReadsByte o s (exec (.wOrA o) s) (fun v t => withAcc (logic (s.a ||| op v)) t) ∧
      ReadsByte o s (exec (.wAddA o) s) (fun v t => withAcc (addC s.a (op v) false) t) ∧
      ReadsByte o s (exec (.wAddcA o) s) (fun v t => withAcc (addC s.a (op v) s.cf) t) ∧
      ReadsByte o s (exec (.wSubA o) s) (fun v t => withAcc (subB s.a (op v) false) t) ∧
      ReadsByte o s (exec (.wSubcA o) s) (fun v t => withAcc (subB s.a (op v) s.cf) t) ∧
      ReadsByte o s (exec (.wLdX o) s) (fun v t => { t with x := Config.wordxTriple s.wordV v }))

/-! ## OP 20 to 27 -/

/-- The relative branches without link, by n and by register B, whose sign is the parameter
JR_B_SIGNED (log 11). -/
def Obligations.RelativeJumps : Prop :=
  ∀ (n : Byte) (s : State), s.cfg.wf = true →
    let byN : Int := (activeCounter s).toNat + 2 * n.toInt
    let byB : Int := (activeCounter s).toNat + 2 * (if s.cfg.jrBSigned then s.b.toInt else s.b.toNat)
    Jumps true byN s (exec (.jrN n) s) ∧ Jumps true byB s (exec .jrB s) ∧
    Jumps (!s.cf) byN s (exec (.jrc0N n) s) ∧ Jumps (!s.cf) byB s (exec .jrc0B s) ∧
    Jumps s.cf byN s (exec (.jrc1N n) s) ∧ Jumps s.cf byB s (exec .jrc1B s) ∧
    Jumps (!s.zf) byN s (exec (.jrz0N n) s) ∧ Jumps (!s.zf) byB s (exec .jrz0B s) ∧
    Jumps s.zf byN s (exec (.jrz1N n) s) ∧ Jumps s.zf byB s (exec .jrz1B s)

/-- The absolute jumps: to the word addresses m, A:B and m:B. -/
def Obligations.AbsoluteJumps : Prop :=
  ∀ (m : Fin 122) (k : BitVec 7) (s : State), s.cfg.wf = true →
    let ab : Int := 2 * (s.a.toNat * 65536 + s.b.toNat)
    Jumps true (2 * m.val) s (exec (.jmpM m) s) ∧
    Jumps (!s.cf) ab s (exec .jmpc0 s) ∧ Jumps s.cf ab s (exec .jmpc1 s) ∧
    Jumps (!s.zf) ab s (exec .jmpz0 s) ∧ Jumps s.zf ab s (exec .jmpz1 s) ∧
    Jumps true ab s (exec .jmpAB s) ∧
    Jumps true (2 * (k.toNat * 65536 + s.b.toNat)) s (exec (.jmpMB k) s)

/-- The relative branches with link: the target from the old B, the link the word address of the next instruction. A
link not taken draws one free bit (log 7); the sign of B is a parameter (log 11). -/
def Obligations.RelativeLinks : Prop :=
  ∀ (n : Byte) (s : State), s.cfg.wf = true →
    let byN : Int := (activeCounter s).toNat + 2 * n.toInt
    let byB : Int := (activeCounter s).toNat + 2 * (if s.cfg.jrBSigned then s.b.toInt else s.b.toNat)
    Links true byN s (exec (.brN n) s) ∧ Links true byB s (exec .brB s) ∧
    Links (!s.cf) byN s (exec (.brc0N n) s) ∧ Links (!s.cf) byB s (exec .brc0B s) ∧
    Links s.cf byN s (exec (.brc1N n) s) ∧ Links s.cf byB s (exec .brc1B s) ∧
    Links (!s.zf) byN s (exec (.brz0N n) s) ∧ Links (!s.zf) byB s (exec .brz0B s) ∧
    Links s.zf byN s (exec (.brz1N n) s) ∧ Links s.zf byB s (exec .brz1B s)

/-- The absolute links: the target from the old A and B. A link not taken draws one free bit (log 7). -/
def Obligations.AbsoluteLinks : Prop :=
  ∀ (m : Fin 122) (k : BitVec 7) (s : State), s.cfg.wf = true →
    let ab : Int := 2 * (s.a.toNat * 65536 + s.b.toNat)
    Links true (2 * m.val) s (exec (.balM m) s) ∧
    Links (!s.cf) ab s (exec .balc0 s) ∧ Links s.cf ab s (exec .balc1 s) ∧
    Links (!s.zf) ab s (exec .balz0 s) ∧ Links s.zf ab s (exec .balz1 s) ∧
    Links true ab s (exec .balAB s) ∧
    Links true (2 * (k.toNat * 65536 + s.b.toNat)) s (exec (.balMB k) s)

/-- The loops: while C is not 0 branch, count C down and step X; with C = 0 fall through, C and X unchanged or both
updated (the parameter LOOP_UPDATE_ON_EXIT, log 8). -/
def Obligations.Loops : Prop :=
  ∀ (n : Byte) (s : State), s.cfg.wf = true →
    ∀ p ∈ [(Instr.loopinc n, s.x + 1), (Instr.loopincW n, s.x + 2), (Instr.loopdec n, s.x - 1), (Instr.loopdecW n, s.x - 2)],
      (s.c ≠ 0 → ∃ t, exec p.1 s = .next t ∧
        MovesTo ((activeCounter s).toNat + 2 * n.toInt) { s with c := s.c - 1, x := p.2 } t) ∧
      (s.c = 0 → exec p.1 s = .next s ∨ exec p.1 s = .next { s with c := 0xFFFF, x := p.2 })

/-! ## OP 28 to 2D -/

/-- The byte stores, ZERO and GETFLAG, in every addressing form: the low byte of the register, zero, or the flag
register's image; stored, refused (the spec's decision D21, log 5), dropped, absent, or into the next word (D24, log 17). -/
def Obligations.ByteStores : Prop :=
  ∀ (o : Operand) (s : State),
    StoresByte o s (exec (.stA o) s) (s.a.extractLsb' 0 8) ∧
    StoresByte o s (exec (.stB o) s) (s.b.extractLsb' 0 8) ∧
    StoresByte o s (exec (.stC o) s) (s.c.extractLsb' 0 8) ∧
    StoresByte o s (exec (.stX o) s) (s.x.extractLsb' 0 8) ∧
    StoresByte o s (exec (.zero o) s) 0 ∧
    StoresByte o s (exec (.getflag o) s) (BitVec.ofNat 8 (128 * s.cf.toNat + 8 * s.off.toNat +
      4 * (s.cfg.userMode && s.uf).toNat + 2 * s.mf.toNat + s.zf.toNat))

/-- The word stores, low byte at the even address (the spec's decision D2), a fault at an odd one (D9); ST.T, the three bytes of
X at a multiple of 4, a fault elsewhere; each byte stored, refused (D21, log 5), dropped, absent, or into the next word (D24,
log 17). -/
def Obligations.WordAndTripleStores : Prop :=
  ∀ (o : Operand) (s : State),
    StoresWord o s (exec (.stWA o) s) s.a ∧
    StoresWord o s (exec (.stWB o) s) s.b ∧
    StoresWord o s (exec (.stWC o) s) s.c ∧
    StoresWord o s (exec (.zeroW o) s) 0 ∧
    StoresTriple o s (exec (.stTX o) s) s.x

/-- IN and IN.W: one input of the operand's width on port C (the spec's decision D25), with an answer of the platform standing
ready and without one, the value being then free; then the store (D2, D9), which may be refused (D21, log 5), dropped, absent or
into the next word (D24, log 17), the input having happened all the same. The list of answers, the log of transfers and the
count of free values are the model's own (logs 4 and 13). -/
def Obligations.InStoresThePortInput : Prop :=
  ∀ (o : Operand) (s : State),
    let byteEvent := fun v : Word => IoEvent.input s.c 1 (v.extractLsb' 0 8 |>.setWidth 16)
    (∀ (v : Word) (rest : List Word), s.inputs = v :: rest →
      StoresByte o { s with inputs := rest, ioLog := byteEvent v :: s.ioLog } (exec (.inp o) s) (v.extractLsb' 0 8) ∧
      StoresWord o { s with inputs := rest, ioLog := .input s.c 2 v :: s.ioLog } (exec (.inpW o) s) v) ∧
    (s.inputs = [] →
      let v := Config.ioInput s.draws s.c
      StoresByte o { s with draws := s.draws + 1, ioLog := byteEvent v :: s.ioLog } (exec (.inp o) s) (v.extractLsb' 0 8) ∧
      StoresWord o { s with draws := s.draws + 1, ioLog := .input s.c 2 v :: s.ioLog } (exec (.inpW o) s) v)

/-! ## OP 2E to 3F -/

/-- The one-operand operations on a byte of memory, its flags as the spec's decisions D7 and D8 have them; a refused byte by R70
and D21 (log 5), the write dropped under PMEMACC by R71, a byte of the next word by R76 and D24 (log 17), an absent one by R62. -/
def Obligations.ModifyByteAlone : Prop :=
  ∀ (o : Operand) (s : State),
    ModifiesByte o s (exec (.dincM o) s) (fun v => addC v 2 false) ∧
    ModifiesByte o s (exec (.ddecM o) s) (fun v => subB v 2 false) ∧
    ModifiesByte o s (exec (.shl o) s) (fun v => shiftLeft v false) ∧
    ModifiesByte o s (exec (.shlc o) s) (fun v => shiftLeft v s.cf) ∧
    ModifiesByte o s (exec (.shr o) s) (fun v => shiftRight v false) ∧
    ModifiesByte o s (exec (.shrc o) s) (fun v => shiftRight v s.cf) ∧
    ModifiesByte o s (exec (.incM o) s) (fun v => addC v 1 false) ∧
    ModifiesByte o s (exec (.inccM o) s) (fun v => addC v 0 s.cf) ∧
    ModifiesByte o s (exec (.decM o) s) (fun v => subB v 1 false) ∧
    ModifiesByte o s (exec (.deccM o) s) (fun v => subB v 0 s.cf) ∧
    ∀ m : Fin 126, ModifiesByte (.dir m) s (exec (.decKeep m) s) (fun v => logic (v - 1))

/-- The one-operand operations on a word of memory, its flags as the spec's decisions D7 and D8 have them; at an odd address a
fault (R66, D9), refused bytes by R70 and D21 (log 5), the write dropped under PMEMACC by R71, bytes of the next word by R76
and D24 (log 17), absent ones by R62. -/
def Obligations.ModifyWordAlone : Prop :=
  ∀ (o : Operand) (s : State),
    ModifiesWord o s (exec (.dincWM o) s) (fun v => addC v 2 false) ∧
    ModifiesWord o s (exec (.ddecWM o) s) (fun v => subB v 2 false) ∧
    ModifiesWord o s (exec (.shlW o) s) (fun v => shiftLeft v false) ∧
    ModifiesWord o s (exec (.shlcW o) s) (fun v => shiftLeft v s.cf) ∧
    ModifiesWord o s (exec (.shrW o) s) (fun v => shiftRight v false) ∧
    ModifiesWord o s (exec (.shrcW o) s) (fun v => shiftRight v s.cf) ∧
    ModifiesWord o s (exec (.incWM o) s) (fun v => addC v 1 false) ∧
    ModifiesWord o s (exec (.inccWM o) s) (fun v => addC v 0 s.cf) ∧
    ModifiesWord o s (exec (.decWM o) s) (fun v => subB v 1 false) ∧
    ModifiesWord o s (exec (.deccWM o) s) (fun v => subB v 0 s.cf) ∧
    ModifiesWord (.dir 124) s (exec .decWKeep s) (fun v => logic (v - 1))

/-- The two-operand operations on a byte of memory: with the low byte of A, of C in the form [A:B]. Flags by the spec's decisions
D7 and D8, a refused byte by D21 (log 5), one of the next word by D24 (log 17). -/
def Obligations.ModifyByteWithRegister : Prop :=
  ∀ (o : Operand) (s : State),
    let r : Byte := (if o = .ab then s.c else s.a).extractLsb' 0 8
    ModifiesByte o s (exec (.andM o) s) (fun v => logic (v &&& r)) ∧
    ModifiesByte o s (exec (.xorM o) s) (fun v => logic (v ^^^ r)) ∧
    ModifiesByte o s (exec (.orM o) s) (fun v => logic (v ||| r)) ∧
    ModifiesByte o s (exec (.addM o) s) (fun v => addC v r false) ∧
    ModifiesByte o s (exec (.addcM o) s) (fun v => addC v r s.cf) ∧
    ModifiesByte o s (exec (.subM o) s) (fun v => subB v r false) ∧
    ModifiesByte o s (exec (.subcM o) s) (fun v => subB v r s.cf)

/-- The two-operand operations on a word of memory: with A, with C in the form [A:B]. Flags by the spec's decisions D7 and D8,
at an odd address a fault (D9), refused bytes by D21 (log 5), those of the next word by D24 (log 17). -/
def Obligations.ModifyWordWithRegister : Prop :=
  ∀ (o : Operand) (s : State),
    let r : Word := if o = .ab then s.c else s.a
    ModifiesWord o s (exec (.andWM o) s) (fun v => logic (v &&& r)) ∧
    ModifiesWord o s (exec (.xorWM o) s) (fun v => logic (v ^^^ r)) ∧
    ModifiesWord o s (exec (.orWM o) s) (fun v => logic (v ||| r)) ∧
    ModifiesWord o s (exec (.addWM o) s) (fun v => addC v r false) ∧
    ModifiesWord o s (exec (.addcWM o) s) (fun v => addC v r s.cf) ∧
    ModifiesWord o s (exec (.subWM o) s) (fun v => subB v r false) ∧
    ModifiesWord o s (exec (.subcWM o) s) (fun v => subB v r s.cf)

/-- MOV and MOV.W read the operand, free where the user mode refuses it (the spec's decision D21, log 5), a fault where it does
not exist, and store it at [X], where it may be refused in turn, dropped under PMEMACC, absent, or into the next word (D24, log
17); the two addresses of MOV.W must be even (D9), and its bytes are low byte first (D2). -/
def Obligations.MovStoresAtX : Prop :=
  ∀ (o : Operand) (s : State),
    (ReadsByteThen o s (exec (.mov o) s) fun v t => StoresByte .x t (exec (.mov o) s) v) ∧
    (ReadsWordThen o s (exec (.movW o) s) fun v t => StoresWord .x t (exec (.movW o) s) v)

/-! ## Hard macros, encodings without a meaning, PMEMACC -/

/-- A hard macro stores its operand at direct address 0, puts it zero-extended in C, sets MC to the routine's entry and MF,
whatever bit 15 of its word is (the spec's decision D28, log 30); the store may be dropped, absent, or into the next word (D24,
log 17). In an interrupt it faults (D32). -/
def Obligations.HardMacroEntry : Prop :=
  ∀ (e : Bool) (op : BitVec 6) (g : Byte) (s : State),
    let entered := fun t : State => { t with
      c := g.setWidth 16, mf := true
      mc := BitVec.ofNat 17 ((op.toNat * s.cfg.macroStride + s.cfg.macroBase) % 2 ^ s.cfg.mcBits) }
    (s.inInt = false → s.mf = false → s.cfg.wf = true →
      (storableByte (.dir 0) s = true → exec (.hardMacro e op g) s = .next (entered (putByte (ea (.dir 0) s) g s))) ∧
      StoresEach false (exec (.hardMacro e op g) s) entered [(ea (.dir 0) s, g)] s) ∧
    (s.inInt = true → exec (.hardMacro e op g) s = .fault .macroInInterrupt)

/-- The encodings to which the spec gives no meaning stop, each with its own reason. -/
def Obligations.EncodingsWithoutMeaningStop : Prop :=
  ∀ (e : Bool) (op : BitVec 6) (g : Byte) (o : Operand) (s : State),
    exec (.unusedOp e op g) s = .fault .reservedOp ∧
    exec (.reservedG e op g) s = .fault .reservedG ∧
    exec (.reservedOpmsb op g) s = .fault .reservedOpmsb ∧
    exec (.getflagW o) s = .fault .getflagW

/-- PMEMACC, which has no encoding (the spec's decision D29) and is an operation of the model (log 16), sets its prefix, under
which data addresses are physical addresses, and ends a pending OPMSB, which is the model's choice (log 16); with NUM, WORD,
WORDX or PMEMACC pending it is misuse (D38), and without the option it faults. -/
def Obligations.PmemaccReachesProgramMemory : Prop :=
  ∀ (s : State) (addr : Triple),
    (s.numN ≠ .zero ∨ s.wordK ≠ .none ∨ s.pmemP = true → pmemacc s = .fault .prefixMisuse) ∧
    (s.numN = .zero → s.wordK = .none → s.pmemP = false →
      (s.cfg.hasPmemacc = true → pmemacc s = .next { s with opmsbP := false, pmemP := true }) ∧
      (s.cfg.hasPmemacc = false → pmemacc s = .fault .optionAbsent)) ∧
    physical { s with pmemP := true } addr = addr.toNat ∧
    physical { s with pmemP := false } addr = s.cfg.dataBase + addr.toNat

/-! ## Frames -/

/-- The instructions that read memory change their destination register, the flags of their row, AE and the count of free
values, and nothing else: no byte of memory. -/
def Obligations.ReadingFrames : Prop :=
  ∀ (o : Operand) (s t : State),
    (∀ i ∈ [Instr.ldA o, .ldWA o], exec i s = .next t → t = { s with a := t.a, ae := t.ae, draws := t.draws }) ∧
    (∀ i ∈ [Instr.ldB o, .ldWB o], exec i s = .next t → t = { s with b := t.b, ae := t.ae, draws := t.draws }) ∧
    (∀ i ∈ [Instr.ldC o, .ldWC o], exec i s = .next t → t = { s with c := t.c, ae := t.ae, draws := t.draws }) ∧
    (∀ i ∈ [Instr.ldX o, .wLdX o, .ldWX o], exec i s = .next t → t = { s with x := t.x, ae := t.ae, draws := t.draws }) ∧
    (∀ i ∈ [Instr.andA o, .xorA o, .orA o, .wAndA o, .wXorA o, .wOrA o], exec i s = .next t →
      t = { s with a := t.a, zf := t.zf, ae := t.ae, draws := t.draws }) ∧
    (∀ i ∈ [Instr.addA o, .addcA o, .subA o, .subcA o, .wAddA o, .wAddcA o, .wSubA o, .wSubcA o], exec i s = .next t →
      t = { s with a := t.a, cf := t.cf, zf := t.zf, ae := t.ae, draws := t.draws })

/-- The stores change the bytes of their width at their operand's address, and AE, and nothing else. -/
def Obligations.StoreFrames : Prop :=
  ∀ (o : Operand) (s t : State),
    (∀ i ∈ [Instr.stA o, .stB o, .stC o, .stX o, .zero o, .getflag o], exec i s = .next t →
      t = { s with mem := t.mem, ae := t.ae } ∧ MemoryKeptOutside [physical s (ea o s)] s t) ∧
    (∀ i ∈ [Instr.stWA o, .stWB o, .stWC o, .zeroW o], exec i s = .next t →
      t = { s with mem := t.mem, ae := t.ae } ∧
      MemoryKeptOutside [physical s (ea o s), physical s (ea o s + 1)] s t) ∧
    (exec (.stTX o) s = .next t →
      t = { s with mem := t.mem, ae := t.ae } ∧
      MemoryKeptOutside [physical s (ea o s), physical s (ea o s + 1), physical s (ea o s + 2)] s t)

/-- The read-modify-write instructions on a byte change that byte, the flags of their row, AE and the count of free values,
and nothing else: the shifts leave ZF, the logic and DEC of 124 and 125 leave CF. -/
def Obligations.ModifyByteFrames : Prop :=
  ∀ (o : Operand) (s t : State),
    (∀ i ∈ [Instr.dincM o, .ddecM o, .incM o, .inccM o, .decM o, .deccM o, .addM o, .addcM o, .subM o, .subcM o],
      exec i s = .next t →
        t = { s with mem := t.mem, cf := t.cf, zf := t.zf, ae := t.ae, draws := t.draws } ∧
        MemoryKeptOutside [physical s (ea o s)] s t) ∧
    (∀ i ∈ [Instr.shl o, .shlc o, .shr o, .shrc o], exec i s = .next t →
      t = { s with mem := t.mem, cf := t.cf, ae := t.ae, draws := t.draws } ∧
      MemoryKeptOutside [physical s (ea o s)] s t) ∧
    (∀ i ∈ [Instr.andM o, .xorM o, .orM o], exec i s = .next t →
      t = { s with mem := t.mem, zf := t.zf, ae := t.ae, draws := t.draws } ∧
      MemoryKeptOutside [physical s (ea o s)] s t) ∧
    (∀ m : Fin 126, exec (.decKeep m) s = .next t →
      t = { s with mem := t.mem, zf := t.zf } ∧ MemoryKeptOutside [physical s (ea (.dir m) s)] s t)

/-- The read-modify-write instructions on a word change its two bytes, the flags of their row, AE and the count of free
values, and nothing else: the shifts leave ZF, the logic and DEC.W of 124 leave CF. -/
def Obligations.ModifyWordFrames : Prop :=
  ∀ (o : Operand) (s t : State),
    (∀ i ∈ [Instr.dincWM o, .ddecWM o, .incWM o, .inccWM o, .decWM o, .deccWM o, .addWM o, .addcWM o, .subWM o, .subcWM o],
      exec i s = .next t →
        t = { s with mem := t.mem, cf := t.cf, zf := t.zf, ae := t.ae, draws := t.draws } ∧
        MemoryKeptOutside [physical s (ea o s), physical s (ea o s + 1)] s t) ∧
    (∀ i ∈ [Instr.shlW o, .shlcW o, .shrW o, .shrcW o], exec i s = .next t →
      t = { s with mem := t.mem, cf := t.cf, ae := t.ae, draws := t.draws } ∧
      MemoryKeptOutside [physical s (ea o s), physical s (ea o s + 1)] s t) ∧
    (∀ i ∈ [Instr.andWM o, .xorWM o, .orWM o], exec i s = .next t →
      t = { s with mem := t.mem, zf := t.zf, ae := t.ae, draws := t.draws } ∧
      MemoryKeptOutside [physical s (ea o s), physical s (ea o s + 1)] s t) ∧
    (exec .decWKeep s = .next t →
      t = { s with mem := t.mem, zf := t.zf } ∧
      MemoryKeptOutside [physical s (ea (.dir 124) s), physical s (ea (.dir 124) s + 1)] s t)

/-- What the other instructions with a memory operand leave: MOV changes the bytes at [X]; OUT and the prefixes no byte; IN the
bytes at its operand; SETFLAG and RETI the flag register; a hard macro and MULX the bytes at direct address 0. -/
def Obligations.OtherFrames : Prop :=
  ∀ (o : Operand) (s t : State),
    (exec (.mov o) s = .next t →
      t = { s with mem := t.mem, ae := t.ae, draws := t.draws } ∧ MemoryKeptOutside [physical s s.x] s t) ∧
    (exec (.movW o) s = .next t →
      t = { s with mem := t.mem, ae := t.ae, draws := t.draws } ∧
      MemoryKeptOutside [physical s s.x, physical s (s.x + 1)] s t) ∧
    (exec (.out o) s = .next t →
      t = { s with ioLog := t.ioLog, cf := t.cf, zf := t.zf, ae := t.ae, draws := t.draws }) ∧
    (∀ i ∈ [Instr.word o, .wordx o], exec i s = .next t →
      t = { s with wordV := t.wordV, wordG := t.wordG, wordK := t.wordK, ae := t.ae, draws := t.draws }) ∧
    (exec (.inp o) s = .next t →
      t = { s with mem := t.mem, inputs := t.inputs, ioLog := t.ioLog, ae := t.ae, draws := t.draws } ∧
      MemoryKeptOutside [physical s (ea o s)] s t) ∧
    (exec (.inpW o) s = .next t →
      t = { s with mem := t.mem, inputs := t.inputs, ioLog := t.ioLog, ae := t.ae, draws := t.draws } ∧
      MemoryKeptOutside [physical s (ea o s), physical s (ea o s + 1)] s t) ∧
    (exec (.setflag o) s = .next t →
      t = { s with
        zf := t.zf, mf := t.mf, uf := t.uf, off := t.off, cf := t.cf, ae := t.ae, draws := t.draws }) ∧
    (∀ m : Fin 126, exec (.reti m) s = .next t →
      t = { s with zf := t.zf, mf := t.mf, uf := t.uf, off := t.off, cf := t.cf, inInt := false }) ∧
    (∀ (e : Bool) (op : BitVec 6) (g : Byte), exec (.hardMacro e op g) s = .next t →
      t = { s with mem := t.mem, c := t.c, mc := t.mc, mf := true } ∧
      MemoryKeptOutside [physical s (ea (.dir 0) s)] s t) ∧
    (exec .mulx s = .next t →
      t = { s with mem := t.mem, a := t.a } ∧
      MemoryKeptOutside [physical s (ea (.dir 0) s), physical s (ea (.dir 0) s + 1)] s t)

/-! ## Memory -/

/-- Reading data returns the last value written, through the same operand: the byte ST, ZERO and GETFLAG store is what the byte
loads read, the word ST.W and ZERO.W store is what the word loads and WORD read, and X as ST.T stores it is what WORD and LD X
load again. -/
def Obligations.LoadsReturnStoredData : Prop :=
  ∀ (o : Operand) (s t : State), s.mem.wf = true →
    (storableByte o s = true →
      ∀ p ∈ [(Instr.stA o, s.a.extractLsb' 0 8), (.stB o, s.b.extractLsb' 0 8), (.stC o, s.c.extractLsb' 0 8),
        (.stX o, s.x.extractLsb' 0 8), (.zero o, (0 : Byte)), (.getflag o, flagImage s)],
        exec p.1 s = .next t →
          exec (.ldA o) t = .next { t with a := p.2.setWidth 16 } ∧
          exec (.ldB o) t = .next { t with b := p.2.setWidth 16 } ∧
          exec (.ldC o) t = .next { t with c := p.2.setWidth 16 } ∧
          exec (.ldX o) t = .next { t with x := p.2.setWidth 24 }) ∧
    (storableWord o s = true →
      ∀ p ∈ [(Instr.stWA o, s.a), (.stWB o, s.b), (.stWC o, s.c), (.zeroW o, (0 : Word))],
        exec p.1 s = .next t →
          exec (.ldWA o) t = .next { t with a := p.2 } ∧
          exec (.ldWB o) t = .next { t with b := p.2 } ∧
          exec (.ldWC o) t = .next { t with c := p.2 } ∧
          exec (.word o) t = .next { t with wordV := p.2, wordG := o.toByte, wordK := .word }) ∧
    (storableTriple o s = true → exec (.stTX o) s = .next t →
      ∃ u, exec (.word o) t = .next u ∧ exec (.wLdX o) u = .next { u with x := s.x })

end Statements
end

