-- ==== Sys2Proof/Laws/Memory.lean ====
section
/-! SUPPORT. The memory's own laws: a write is read back, leaves every other byte, and keeps the canonical form and the bound. -/

namespace Sys2Proof.Machine

theorem Memory.wfFrom_mono {lo hi : Nat} (h : lo ≤ hi) (m : Memory) :
    Memory.wfFrom hi m = true → Memory.wfFrom lo m = true := by
  cases m with
  | nil => simp [Memory.wfFrom]
  | cons c m => simp only [Memory.wfFrom, Bool.and_eq_true, decide_eq_true_eq]; intro ⟨⟨h1, h2⟩, h3⟩; exact ⟨⟨by omega, h2⟩, h3⟩

/-- Below the first listed address everything reads as unlisted. -/
theorem Memory.read_below {lo p : Nat} (h : p < lo) (m : Memory) (w : Memory.wfFrom lo m = true) :
    m.read p = unlistedByte := by
  induction m generalizing lo with
  | nil => rfl
  | cons c m ih =>
    simp only [Memory.wfFrom, Bool.and_eq_true, decide_eq_true_eq] at w
    have hq : ¬ c.1 = p := by omega
    simp only [Memory.read, hq, if_false]
    exact ih (by omega) w.2

/-- A write leaves every other byte. -/
theorem Memory.read_write_other {p q : Nat} (h : q ≠ p) (v : Byte) (m : Memory) :
    (m.write p v).read q = m.read q := by
  induction m with
  | nil => simp only [Memory.write]; split_ifs <;> simp [Memory.read, Ne.symm h]
  | cons c m ih =>
    simp only [Memory.write]
    split_ifs with h1 h2 h3 h4
    · rfl
    · simp [Memory.read, Ne.symm h]
    · have : ¬ c.1 = q := by omega
      simp [Memory.read, this]
    · have : ¬ c.1 = q := by omega
      simp [Memory.read, this, Ne.symm h]
    · simp only [Memory.read, ih]

/-- A write is read back, in a memory of canonical form. -/
theorem Memory.read_write_same {lo : Nat} (p : Nat) (v : Byte) (m : Memory) (w : Memory.wfFrom lo m = true) :
    (m.write p v).read p = v := by
  induction m generalizing lo with
  | nil =>
    simp only [Memory.write]
    split_ifs with h
    · simp [Memory.read, h]
    · simp [Memory.read]
  | cons c m ih =>
    simp only [Memory.wfFrom, Bool.and_eq_true, decide_eq_true_eq] at w
    simp only [Memory.write]
    split_ifs with h1 h2 h3 h4
    · have hq : ¬ c.1 = p := by omega
      simp only [Memory.read, hq, if_false, h2]
      exact Memory.read_below (by omega) m w.2
    · simp [Memory.read]
    · rw [Memory.read_below (by omega) m w.2, h4]
    · simp [Memory.read]
    · have hq : ¬ c.1 = p := by omega
      simp only [Memory.read, hq, if_false]
      exact ih w.2

/-- A write keeps the canonical form. -/
theorem Memory.wfFrom_write {lo p : Nat} (h : lo ≤ p) (v : Byte) (m : Memory) (w : Memory.wfFrom lo m = true) :
    Memory.wfFrom lo (m.write p v) = true := by
  induction m generalizing lo with
  | nil => simp only [Memory.write]; split_ifs with hv <;> simp [Memory.wfFrom, h, hv]
  | cons c m ih =>
    have w' := w
    simp only [Memory.wfFrom, Bool.and_eq_true, decide_eq_true_eq] at w
    simp only [Memory.write]
    split_ifs with h1 h2 h3 h4
    · exact w'
    · simp only [Memory.wfFrom, Bool.and_eq_true, decide_eq_true_eq]
      exact ⟨⟨h, by simpa using h2⟩, ⟨by omega, w.1.2⟩, w.2⟩
    · exact Memory.wfFrom_mono (by omega) m w.2
    · simp only [Memory.wfFrom, Bool.and_eq_true, decide_eq_true_eq]
      exact ⟨⟨h, by simpa using h4⟩, by rw [h3]; exact w.2⟩
    · simp only [Memory.wfFrom, Bool.and_eq_true, decide_eq_true_eq]
      exact ⟨w.1, ih (by omega) w.2⟩

/-- A write keeps the canonical form. -/
theorem Memory.wf_write (p : Nat) (v : Byte) (m : Memory) (w : m.wf = true) : (m.write p v).wf = true :=
  Memory.wfFrom_write (Nat.zero_le p) v m w

/-- A write below the bound keeps the bound. -/
theorem Memory.below_write {n p : Nat} (h : p < n) (v : Byte) (m : Memory) (b : m.below n = true) :
    (m.write p v).below n = true := by
  induction m with
  | nil => simp only [Memory.write]; split_ifs <;> simp [Memory.below, h]
  | cons c m ih =>
    have cons (d : Host.Cell) (l : Memory) : Memory.below n (d :: l) = (decide (d.1 < n) && Memory.below n l) := rfl
    rw [cons, Bool.and_eq_true] at b
    simp only [Memory.write]
    split_ifs <;> simp_all

/-- The memory after reset has the canonical form. -/
theorem reset_mem_wf : State.reset.mem.wf = true := rfl

end Sys2Proof.Machine
end

