-- ==== Sys2Proof/Laws/State.lean ====
section
/-! SUPPORT. What each field of the state is after each named update: one lemma per field, so that no proof unfolds a record
update. -/

namespace Sys2Proof.Machine

/-! ## `setAB` -/

@[simp] theorem setAB_a (v : Pair) (s : State) : (setAB v s).a = v.extractLsb' 16 16 := rfl
@[simp] theorem setAB_b (v : Pair) (s : State) : (setAB v s).b = v.extractLsb' 0 16 := rfl
@[simp] theorem setAB_c (v : Pair) (s : State) : (setAB v s).c = s.c := rfl
@[simp] theorem setAB_x (v : Pair) (s : State) : (setAB v s).x = s.x := rfl
@[simp] theorem setAB_pc (v : Pair) (s : State) : (setAB v s).pc = s.pc := rfl
@[simp] theorem setAB_mc (v : Pair) (s : State) : (setAB v s).mc = s.mc := rfl
@[simp] theorem setAB_ic (v : Pair) (s : State) : (setAB v s).ic = s.ic := rfl
@[simp] theorem setAB_zf (v : Pair) (s : State) : (setAB v s).zf = s.zf := rfl
@[simp] theorem setAB_mf (v : Pair) (s : State) : (setAB v s).mf = s.mf := rfl
@[simp] theorem setAB_uf (v : Pair) (s : State) : (setAB v s).uf = s.uf := rfl
@[simp] theorem setAB_off (v : Pair) (s : State) : (setAB v s).off = s.off := rfl
@[simp] theorem setAB_cf (v : Pair) (s : State) : (setAB v s).cf = s.cf := rfl
@[simp] theorem setAB_ae (v : Pair) (s : State) : (setAB v s).ae = s.ae := rfl
@[simp] theorem setAB_tm (v : Pair) (s : State) : (setAB v s).tm = s.tm := rfl
@[simp] theorem setAB_ef (v : Pair) (s : State) : (setAB v s).ef = s.ef := rfl
@[simp] theorem setAB_inInt (v : Pair) (s : State) : (setAB v s).inInt = s.inInt := rfl
@[simp] theorem setAB_numN (v : Pair) (s : State) : (setAB v s).numN = s.numN := rfl
@[simp] theorem setAB_numV (v : Pair) (s : State) : (setAB v s).numV = s.numV := rfl
@[simp] theorem setAB_wordK (v : Pair) (s : State) : (setAB v s).wordK = s.wordK := rfl
@[simp] theorem setAB_wordV (v : Pair) (s : State) : (setAB v s).wordV = s.wordV := rfl
@[simp] theorem setAB_wordG (v : Pair) (s : State) : (setAB v s).wordG = s.wordG := rfl
@[simp] theorem setAB_opmsbP (v : Pair) (s : State) : (setAB v s).opmsbP = s.opmsbP := rfl
@[simp] theorem setAB_pmemP (v : Pair) (s : State) : (setAB v s).pmemP = s.pmemP := rfl
@[simp] theorem setAB_cpuinfoAddr (v : Pair) (s : State) : (setAB v s).cpuinfoAddr = s.cpuinfoAddr := rfl
@[simp] theorem setAB_int0 (v : Pair) (s : State) : (setAB v s).int0 = s.int0 := rfl
@[simp] theorem setAB_int1 (v : Pair) (s : State) : (setAB v s).int1 = s.int1 := rfl
@[simp] theorem setAB_mem (v : Pair) (s : State) : (setAB v s).mem = s.mem := rfl
@[simp] theorem setAB_requests (v : Pair) (s : State) : (setAB v s).requests = s.requests := rfl
@[simp] theorem setAB_inputs (v : Pair) (s : State) : (setAB v s).inputs = s.inputs := rfl
@[simp] theorem setAB_ioLog (v : Pair) (s : State) : (setAB v s).ioLog = s.ioLog := rfl
@[simp] theorem setAB_draws (v : Pair) (s : State) : (setAB v s).draws = s.draws := rfl
@[simp] theorem setAB_cfg (v : Pair) (s : State) : (setAB v s).cfg = s.cfg := rfl

/-! ## `setPC` -/

@[simp] theorem setPC_a (v : Pair) (s : State) : (setPC v s).a = s.a := rfl
@[simp] theorem setPC_b (v : Pair) (s : State) : (setPC v s).b = s.b := rfl
@[simp] theorem setPC_c (v : Pair) (s : State) : (setPC v s).c = s.c := rfl
@[simp] theorem setPC_x (v : Pair) (s : State) : (setPC v s).x = s.x := rfl
@[simp] theorem setPC_pc (v : Pair) (s : State) : (setPC v s).pc = (keepLow s.cfg.pcBits v).setWidth 25 := rfl
@[simp] theorem setPC_mc (v : Pair) (s : State) : (setPC v s).mc = s.mc := rfl
@[simp] theorem setPC_ic (v : Pair) (s : State) : (setPC v s).ic = s.ic := rfl
@[simp] theorem setPC_zf (v : Pair) (s : State) : (setPC v s).zf = s.zf := rfl
@[simp] theorem setPC_mf (v : Pair) (s : State) : (setPC v s).mf = s.mf := rfl
@[simp] theorem setPC_uf (v : Pair) (s : State) : (setPC v s).uf = s.uf := rfl
@[simp] theorem setPC_off (v : Pair) (s : State) : (setPC v s).off = s.off := rfl
@[simp] theorem setPC_cf (v : Pair) (s : State) : (setPC v s).cf = s.cf := rfl
@[simp] theorem setPC_ae (v : Pair) (s : State) : (setPC v s).ae = s.ae := rfl
@[simp] theorem setPC_tm (v : Pair) (s : State) : (setPC v s).tm = s.tm := rfl
@[simp] theorem setPC_ef (v : Pair) (s : State) : (setPC v s).ef = s.ef := rfl
@[simp] theorem setPC_inInt (v : Pair) (s : State) : (setPC v s).inInt = s.inInt := rfl
@[simp] theorem setPC_numN (v : Pair) (s : State) : (setPC v s).numN = s.numN := rfl
@[simp] theorem setPC_numV (v : Pair) (s : State) : (setPC v s).numV = s.numV := rfl
@[simp] theorem setPC_wordK (v : Pair) (s : State) : (setPC v s).wordK = s.wordK := rfl
@[simp] theorem setPC_wordV (v : Pair) (s : State) : (setPC v s).wordV = s.wordV := rfl
@[simp] theorem setPC_wordG (v : Pair) (s : State) : (setPC v s).wordG = s.wordG := rfl
@[simp] theorem setPC_opmsbP (v : Pair) (s : State) : (setPC v s).opmsbP = s.opmsbP := rfl
@[simp] theorem setPC_pmemP (v : Pair) (s : State) : (setPC v s).pmemP = s.pmemP := rfl
@[simp] theorem setPC_cpuinfoAddr (v : Pair) (s : State) : (setPC v s).cpuinfoAddr = s.cpuinfoAddr := rfl
@[simp] theorem setPC_int0 (v : Pair) (s : State) : (setPC v s).int0 = s.int0 := rfl
@[simp] theorem setPC_int1 (v : Pair) (s : State) : (setPC v s).int1 = s.int1 := rfl
@[simp] theorem setPC_mem (v : Pair) (s : State) : (setPC v s).mem = s.mem := rfl
@[simp] theorem setPC_requests (v : Pair) (s : State) : (setPC v s).requests = s.requests := rfl
@[simp] theorem setPC_inputs (v : Pair) (s : State) : (setPC v s).inputs = s.inputs := rfl
@[simp] theorem setPC_ioLog (v : Pair) (s : State) : (setPC v s).ioLog = s.ioLog := rfl
@[simp] theorem setPC_draws (v : Pair) (s : State) : (setPC v s).draws = s.draws := rfl
@[simp] theorem setPC_cfg (v : Pair) (s : State) : (setPC v s).cfg = s.cfg := rfl

/-! ## `setMC` -/

@[simp] theorem setMC_a (v : Pair) (s : State) : (setMC v s).a = s.a := rfl
@[simp] theorem setMC_b (v : Pair) (s : State) : (setMC v s).b = s.b := rfl
@[simp] theorem setMC_c (v : Pair) (s : State) : (setMC v s).c = s.c := rfl
@[simp] theorem setMC_x (v : Pair) (s : State) : (setMC v s).x = s.x := rfl
@[simp] theorem setMC_pc (v : Pair) (s : State) : (setMC v s).pc = s.pc := rfl
@[simp] theorem setMC_mc (v : Pair) (s : State) : (setMC v s).mc = (keepLow s.cfg.mcBits v).setWidth 17 := rfl
@[simp] theorem setMC_ic (v : Pair) (s : State) : (setMC v s).ic = s.ic := rfl
@[simp] theorem setMC_zf (v : Pair) (s : State) : (setMC v s).zf = s.zf := rfl
@[simp] theorem setMC_mf (v : Pair) (s : State) : (setMC v s).mf = s.mf := rfl
@[simp] theorem setMC_uf (v : Pair) (s : State) : (setMC v s).uf = s.uf := rfl
@[simp] theorem setMC_off (v : Pair) (s : State) : (setMC v s).off = s.off := rfl
@[simp] theorem setMC_cf (v : Pair) (s : State) : (setMC v s).cf = s.cf := rfl
@[simp] theorem setMC_ae (v : Pair) (s : State) : (setMC v s).ae = s.ae := rfl
@[simp] theorem setMC_tm (v : Pair) (s : State) : (setMC v s).tm = s.tm := rfl
@[simp] theorem setMC_ef (v : Pair) (s : State) : (setMC v s).ef = s.ef := rfl
@[simp] theorem setMC_inInt (v : Pair) (s : State) : (setMC v s).inInt = s.inInt := rfl
@[simp] theorem setMC_numN (v : Pair) (s : State) : (setMC v s).numN = s.numN := rfl
@[simp] theorem setMC_numV (v : Pair) (s : State) : (setMC v s).numV = s.numV := rfl
@[simp] theorem setMC_wordK (v : Pair) (s : State) : (setMC v s).wordK = s.wordK := rfl
@[simp] theorem setMC_wordV (v : Pair) (s : State) : (setMC v s).wordV = s.wordV := rfl
@[simp] theorem setMC_wordG (v : Pair) (s : State) : (setMC v s).wordG = s.wordG := rfl
@[simp] theorem setMC_opmsbP (v : Pair) (s : State) : (setMC v s).opmsbP = s.opmsbP := rfl
@[simp] theorem setMC_pmemP (v : Pair) (s : State) : (setMC v s).pmemP = s.pmemP := rfl
@[simp] theorem setMC_cpuinfoAddr (v : Pair) (s : State) : (setMC v s).cpuinfoAddr = s.cpuinfoAddr := rfl
@[simp] theorem setMC_int0 (v : Pair) (s : State) : (setMC v s).int0 = s.int0 := rfl
@[simp] theorem setMC_int1 (v : Pair) (s : State) : (setMC v s).int1 = s.int1 := rfl
@[simp] theorem setMC_mem (v : Pair) (s : State) : (setMC v s).mem = s.mem := rfl
@[simp] theorem setMC_requests (v : Pair) (s : State) : (setMC v s).requests = s.requests := rfl
@[simp] theorem setMC_inputs (v : Pair) (s : State) : (setMC v s).inputs = s.inputs := rfl
@[simp] theorem setMC_ioLog (v : Pair) (s : State) : (setMC v s).ioLog = s.ioLog := rfl
@[simp] theorem setMC_draws (v : Pair) (s : State) : (setMC v s).draws = s.draws := rfl
@[simp] theorem setMC_cfg (v : Pair) (s : State) : (setMC v s).cfg = s.cfg := rfl

/-! ## `setIC` -/

@[simp] theorem setIC_a (v : Pair) (s : State) : (setIC v s).a = s.a := rfl
@[simp] theorem setIC_b (v : Pair) (s : State) : (setIC v s).b = s.b := rfl
@[simp] theorem setIC_c (v : Pair) (s : State) : (setIC v s).c = s.c := rfl
@[simp] theorem setIC_x (v : Pair) (s : State) : (setIC v s).x = s.x := rfl
@[simp] theorem setIC_pc (v : Pair) (s : State) : (setIC v s).pc = s.pc := rfl
@[simp] theorem setIC_mc (v : Pair) (s : State) : (setIC v s).mc = s.mc := rfl
@[simp] theorem setIC_ic (v : Pair) (s : State) : (setIC v s).ic = (keepLow s.cfg.icBits v).setWidth 17 := rfl
@[simp] theorem setIC_zf (v : Pair) (s : State) : (setIC v s).zf = s.zf := rfl
@[simp] theorem setIC_mf (v : Pair) (s : State) : (setIC v s).mf = s.mf := rfl
@[simp] theorem setIC_uf (v : Pair) (s : State) : (setIC v s).uf = s.uf := rfl
@[simp] theorem setIC_off (v : Pair) (s : State) : (setIC v s).off = s.off := rfl
@[simp] theorem setIC_cf (v : Pair) (s : State) : (setIC v s).cf = s.cf := rfl
@[simp] theorem setIC_ae (v : Pair) (s : State) : (setIC v s).ae = s.ae := rfl
@[simp] theorem setIC_tm (v : Pair) (s : State) : (setIC v s).tm = s.tm := rfl
@[simp] theorem setIC_ef (v : Pair) (s : State) : (setIC v s).ef = s.ef := rfl
@[simp] theorem setIC_inInt (v : Pair) (s : State) : (setIC v s).inInt = s.inInt := rfl
@[simp] theorem setIC_numN (v : Pair) (s : State) : (setIC v s).numN = s.numN := rfl
@[simp] theorem setIC_numV (v : Pair) (s : State) : (setIC v s).numV = s.numV := rfl
@[simp] theorem setIC_wordK (v : Pair) (s : State) : (setIC v s).wordK = s.wordK := rfl
@[simp] theorem setIC_wordV (v : Pair) (s : State) : (setIC v s).wordV = s.wordV := rfl
@[simp] theorem setIC_wordG (v : Pair) (s : State) : (setIC v s).wordG = s.wordG := rfl
@[simp] theorem setIC_opmsbP (v : Pair) (s : State) : (setIC v s).opmsbP = s.opmsbP := rfl
@[simp] theorem setIC_pmemP (v : Pair) (s : State) : (setIC v s).pmemP = s.pmemP := rfl
@[simp] theorem setIC_cpuinfoAddr (v : Pair) (s : State) : (setIC v s).cpuinfoAddr = s.cpuinfoAddr := rfl
@[simp] theorem setIC_int0 (v : Pair) (s : State) : (setIC v s).int0 = s.int0 := rfl
@[simp] theorem setIC_int1 (v : Pair) (s : State) : (setIC v s).int1 = s.int1 := rfl
@[simp] theorem setIC_mem (v : Pair) (s : State) : (setIC v s).mem = s.mem := rfl
@[simp] theorem setIC_requests (v : Pair) (s : State) : (setIC v s).requests = s.requests := rfl
@[simp] theorem setIC_inputs (v : Pair) (s : State) : (setIC v s).inputs = s.inputs := rfl
@[simp] theorem setIC_ioLog (v : Pair) (s : State) : (setIC v s).ioLog = s.ioLog := rfl
@[simp] theorem setIC_draws (v : Pair) (s : State) : (setIC v s).draws = s.draws := rfl
@[simp] theorem setIC_cfg (v : Pair) (s : State) : (setIC v s).cfg = s.cfg := rfl

/-! ## `setFlags` -/

@[simp] theorem setFlags_a (c z : Option Bool) (s : State) : (setFlags c z s).a = s.a := rfl
@[simp] theorem setFlags_b (c z : Option Bool) (s : State) : (setFlags c z s).b = s.b := rfl
@[simp] theorem setFlags_c (c z : Option Bool) (s : State) : (setFlags c z s).c = s.c := rfl
@[simp] theorem setFlags_x (c z : Option Bool) (s : State) : (setFlags c z s).x = s.x := rfl
@[simp] theorem setFlags_pc (c z : Option Bool) (s : State) : (setFlags c z s).pc = s.pc := rfl
@[simp] theorem setFlags_mc (c z : Option Bool) (s : State) : (setFlags c z s).mc = s.mc := rfl
@[simp] theorem setFlags_ic (c z : Option Bool) (s : State) : (setFlags c z s).ic = s.ic := rfl
@[simp] theorem setFlags_zf (c z : Option Bool) (s : State) : (setFlags c z s).zf = z.getD s.zf := rfl
@[simp] theorem setFlags_mf (c z : Option Bool) (s : State) : (setFlags c z s).mf = s.mf := rfl
@[simp] theorem setFlags_uf (c z : Option Bool) (s : State) : (setFlags c z s).uf = s.uf := rfl
@[simp] theorem setFlags_off (c z : Option Bool) (s : State) : (setFlags c z s).off = s.off := rfl
@[simp] theorem setFlags_cf (c z : Option Bool) (s : State) : (setFlags c z s).cf = c.getD s.cf := rfl
@[simp] theorem setFlags_ae (c z : Option Bool) (s : State) : (setFlags c z s).ae = s.ae := rfl
@[simp] theorem setFlags_tm (c z : Option Bool) (s : State) : (setFlags c z s).tm = s.tm := rfl
@[simp] theorem setFlags_ef (c z : Option Bool) (s : State) : (setFlags c z s).ef = s.ef := rfl
@[simp] theorem setFlags_inInt (c z : Option Bool) (s : State) : (setFlags c z s).inInt = s.inInt := rfl
@[simp] theorem setFlags_numN (c z : Option Bool) (s : State) : (setFlags c z s).numN = s.numN := rfl
@[simp] theorem setFlags_numV (c z : Option Bool) (s : State) : (setFlags c z s).numV = s.numV := rfl
@[simp] theorem setFlags_wordK (c z : Option Bool) (s : State) : (setFlags c z s).wordK = s.wordK := rfl
@[simp] theorem setFlags_wordV (c z : Option Bool) (s : State) : (setFlags c z s).wordV = s.wordV := rfl
@[simp] theorem setFlags_wordG (c z : Option Bool) (s : State) : (setFlags c z s).wordG = s.wordG := rfl
@[simp] theorem setFlags_opmsbP (c z : Option Bool) (s : State) : (setFlags c z s).opmsbP = s.opmsbP := rfl
@[simp] theorem setFlags_pmemP (c z : Option Bool) (s : State) : (setFlags c z s).pmemP = s.pmemP := rfl
@[simp] theorem setFlags_cpuinfoAddr (c z : Option Bool) (s : State) : (setFlags c z s).cpuinfoAddr = s.cpuinfoAddr := rfl
@[simp] theorem setFlags_int0 (c z : Option Bool) (s : State) : (setFlags c z s).int0 = s.int0 := rfl
@[simp] theorem setFlags_int1 (c z : Option Bool) (s : State) : (setFlags c z s).int1 = s.int1 := rfl
@[simp] theorem setFlags_mem (c z : Option Bool) (s : State) : (setFlags c z s).mem = s.mem := rfl
@[simp] theorem setFlags_requests (c z : Option Bool) (s : State) : (setFlags c z s).requests = s.requests := rfl
@[simp] theorem setFlags_inputs (c z : Option Bool) (s : State) : (setFlags c z s).inputs = s.inputs := rfl
@[simp] theorem setFlags_ioLog (c z : Option Bool) (s : State) : (setFlags c z s).ioLog = s.ioLog := rfl
@[simp] theorem setFlags_draws (c z : Option Bool) (s : State) : (setFlags c z s).draws = s.draws := rfl
@[simp] theorem setFlags_cfg (c z : Option Bool) (s : State) : (setFlags c z s).cfg = s.cfg := rfl

/-! ## `accumulate` -/

@[simp] theorem accumulate_a (r : Alu 16) (s : State) : (accumulate r s).a = r.val := rfl
@[simp] theorem accumulate_b (r : Alu 16) (s : State) : (accumulate r s).b = s.b := rfl
@[simp] theorem accumulate_c (r : Alu 16) (s : State) : (accumulate r s).c = s.c := rfl
@[simp] theorem accumulate_x (r : Alu 16) (s : State) : (accumulate r s).x = s.x := rfl
@[simp] theorem accumulate_pc (r : Alu 16) (s : State) : (accumulate r s).pc = s.pc := rfl
@[simp] theorem accumulate_mc (r : Alu 16) (s : State) : (accumulate r s).mc = s.mc := rfl
@[simp] theorem accumulate_ic (r : Alu 16) (s : State) : (accumulate r s).ic = s.ic := rfl
@[simp] theorem accumulate_zf (r : Alu 16) (s : State) : (accumulate r s).zf = r.zf.getD s.zf := rfl
@[simp] theorem accumulate_mf (r : Alu 16) (s : State) : (accumulate r s).mf = s.mf := rfl
@[simp] theorem accumulate_uf (r : Alu 16) (s : State) : (accumulate r s).uf = s.uf := rfl
@[simp] theorem accumulate_off (r : Alu 16) (s : State) : (accumulate r s).off = s.off := rfl
@[simp] theorem accumulate_cf (r : Alu 16) (s : State) : (accumulate r s).cf = r.cf.getD s.cf := rfl
@[simp] theorem accumulate_ae (r : Alu 16) (s : State) : (accumulate r s).ae = s.ae := rfl
@[simp] theorem accumulate_tm (r : Alu 16) (s : State) : (accumulate r s).tm = s.tm := rfl
@[simp] theorem accumulate_ef (r : Alu 16) (s : State) : (accumulate r s).ef = s.ef := rfl
@[simp] theorem accumulate_inInt (r : Alu 16) (s : State) : (accumulate r s).inInt = s.inInt := rfl
@[simp] theorem accumulate_numN (r : Alu 16) (s : State) : (accumulate r s).numN = s.numN := rfl
@[simp] theorem accumulate_numV (r : Alu 16) (s : State) : (accumulate r s).numV = s.numV := rfl
@[simp] theorem accumulate_wordK (r : Alu 16) (s : State) : (accumulate r s).wordK = s.wordK := rfl
@[simp] theorem accumulate_wordV (r : Alu 16) (s : State) : (accumulate r s).wordV = s.wordV := rfl
@[simp] theorem accumulate_wordG (r : Alu 16) (s : State) : (accumulate r s).wordG = s.wordG := rfl
@[simp] theorem accumulate_opmsbP (r : Alu 16) (s : State) : (accumulate r s).opmsbP = s.opmsbP := rfl
@[simp] theorem accumulate_pmemP (r : Alu 16) (s : State) : (accumulate r s).pmemP = s.pmemP := rfl
@[simp] theorem accumulate_cpuinfoAddr (r : Alu 16) (s : State) : (accumulate r s).cpuinfoAddr = s.cpuinfoAddr := rfl
@[simp] theorem accumulate_int0 (r : Alu 16) (s : State) : (accumulate r s).int0 = s.int0 := rfl
@[simp] theorem accumulate_int1 (r : Alu 16) (s : State) : (accumulate r s).int1 = s.int1 := rfl
@[simp] theorem accumulate_mem (r : Alu 16) (s : State) : (accumulate r s).mem = s.mem := rfl
@[simp] theorem accumulate_requests (r : Alu 16) (s : State) : (accumulate r s).requests = s.requests := rfl
@[simp] theorem accumulate_inputs (r : Alu 16) (s : State) : (accumulate r s).inputs = s.inputs := rfl
@[simp] theorem accumulate_ioLog (r : Alu 16) (s : State) : (accumulate r s).ioLog = s.ioLog := rfl
@[simp] theorem accumulate_draws (r : Alu 16) (s : State) : (accumulate r s).draws = s.draws := rfl
@[simp] theorem accumulate_cfg (r : Alu 16) (s : State) : (accumulate r s).cfg = s.cfg := rfl

/-! ## `setUF` -/

@[simp] theorem setUF_a (v : Bool) (s : State) : (setUF v s).a = s.a := rfl
@[simp] theorem setUF_b (v : Bool) (s : State) : (setUF v s).b = s.b := rfl
@[simp] theorem setUF_c (v : Bool) (s : State) : (setUF v s).c = s.c := rfl
@[simp] theorem setUF_x (v : Bool) (s : State) : (setUF v s).x = s.x := rfl
@[simp] theorem setUF_pc (v : Bool) (s : State) : (setUF v s).pc = s.pc := rfl
@[simp] theorem setUF_mc (v : Bool) (s : State) : (setUF v s).mc = s.mc := rfl
@[simp] theorem setUF_ic (v : Bool) (s : State) : (setUF v s).ic = s.ic := rfl
@[simp] theorem setUF_zf (v : Bool) (s : State) : (setUF v s).zf = s.zf := rfl
@[simp] theorem setUF_mf (v : Bool) (s : State) : (setUF v s).mf = s.mf := rfl
@[simp] theorem setUF_uf (v : Bool) (s : State) : (setUF v s).uf = if s.cfg.userMode then v else s.uf := rfl
@[simp] theorem setUF_off (v : Bool) (s : State) : (setUF v s).off = s.off := rfl
@[simp] theorem setUF_cf (v : Bool) (s : State) : (setUF v s).cf = s.cf := rfl
@[simp] theorem setUF_ae (v : Bool) (s : State) : (setUF v s).ae = s.ae := rfl
@[simp] theorem setUF_tm (v : Bool) (s : State) : (setUF v s).tm = s.tm := rfl
@[simp] theorem setUF_ef (v : Bool) (s : State) : (setUF v s).ef = s.ef := rfl
@[simp] theorem setUF_inInt (v : Bool) (s : State) : (setUF v s).inInt = s.inInt := rfl
@[simp] theorem setUF_numN (v : Bool) (s : State) : (setUF v s).numN = s.numN := rfl
@[simp] theorem setUF_numV (v : Bool) (s : State) : (setUF v s).numV = s.numV := rfl
@[simp] theorem setUF_wordK (v : Bool) (s : State) : (setUF v s).wordK = s.wordK := rfl
@[simp] theorem setUF_wordV (v : Bool) (s : State) : (setUF v s).wordV = s.wordV := rfl
@[simp] theorem setUF_wordG (v : Bool) (s : State) : (setUF v s).wordG = s.wordG := rfl
@[simp] theorem setUF_opmsbP (v : Bool) (s : State) : (setUF v s).opmsbP = s.opmsbP := rfl
@[simp] theorem setUF_pmemP (v : Bool) (s : State) : (setUF v s).pmemP = s.pmemP := rfl
@[simp] theorem setUF_cpuinfoAddr (v : Bool) (s : State) : (setUF v s).cpuinfoAddr = s.cpuinfoAddr := rfl
@[simp] theorem setUF_int0 (v : Bool) (s : State) : (setUF v s).int0 = s.int0 := rfl
@[simp] theorem setUF_int1 (v : Bool) (s : State) : (setUF v s).int1 = s.int1 := rfl
@[simp] theorem setUF_mem (v : Bool) (s : State) : (setUF v s).mem = s.mem := rfl
@[simp] theorem setUF_requests (v : Bool) (s : State) : (setUF v s).requests = s.requests := rfl
@[simp] theorem setUF_inputs (v : Bool) (s : State) : (setUF v s).inputs = s.inputs := rfl
@[simp] theorem setUF_ioLog (v : Bool) (s : State) : (setUF v s).ioLog = s.ioLog := rfl
@[simp] theorem setUF_draws (v : Bool) (s : State) : (setUF v s).draws = s.draws := rfl
@[simp] theorem setUF_cfg (v : Bool) (s : State) : (setUF v s).cfg = s.cfg := rfl

/-! ## `loadFlags` -/

@[simp] theorem loadFlags_a (v : Byte) (s : State) : (loadFlags v s).a = s.a := rfl
@[simp] theorem loadFlags_b (v : Byte) (s : State) : (loadFlags v s).b = s.b := rfl
@[simp] theorem loadFlags_c (v : Byte) (s : State) : (loadFlags v s).c = s.c := rfl
@[simp] theorem loadFlags_x (v : Byte) (s : State) : (loadFlags v s).x = s.x := rfl
@[simp] theorem loadFlags_pc (v : Byte) (s : State) : (loadFlags v s).pc = s.pc := rfl
@[simp] theorem loadFlags_mc (v : Byte) (s : State) : (loadFlags v s).mc = s.mc := rfl
@[simp] theorem loadFlags_ic (v : Byte) (s : State) : (loadFlags v s).ic = s.ic := rfl
@[simp] theorem loadFlags_zf (v : Byte) (s : State) : (loadFlags v s).zf = v.getLsbD 0 := rfl
@[simp] theorem loadFlags_mf (v : Byte) (s : State) : (loadFlags v s).mf = v.getLsbD 1 := rfl
@[simp] theorem loadFlags_uf (v : Byte) (s : State) : (loadFlags v s).uf = if s.cfg.userMode then v.getLsbD 2 else s.uf := rfl
@[simp] theorem loadFlags_off (v : Byte) (s : State) : (loadFlags v s).off = v.extractLsb' 3 2 := rfl
@[simp] theorem loadFlags_cf (v : Byte) (s : State) : (loadFlags v s).cf = v.getLsbD 7 := rfl
@[simp] theorem loadFlags_ae (v : Byte) (s : State) : (loadFlags v s).ae = s.ae := rfl
@[simp] theorem loadFlags_tm (v : Byte) (s : State) : (loadFlags v s).tm = s.tm := rfl
@[simp] theorem loadFlags_ef (v : Byte) (s : State) : (loadFlags v s).ef = s.ef := rfl
@[simp] theorem loadFlags_inInt (v : Byte) (s : State) : (loadFlags v s).inInt = s.inInt := rfl
@[simp] theorem loadFlags_numN (v : Byte) (s : State) : (loadFlags v s).numN = s.numN := rfl
@[simp] theorem loadFlags_numV (v : Byte) (s : State) : (loadFlags v s).numV = s.numV := rfl
@[simp] theorem loadFlags_wordK (v : Byte) (s : State) : (loadFlags v s).wordK = s.wordK := rfl
@[simp] theorem loadFlags_wordV (v : Byte) (s : State) : (loadFlags v s).wordV = s.wordV := rfl
@[simp] theorem loadFlags_wordG (v : Byte) (s : State) : (loadFlags v s).wordG = s.wordG := rfl
@[simp] theorem loadFlags_opmsbP (v : Byte) (s : State) : (loadFlags v s).opmsbP = s.opmsbP := rfl
@[simp] theorem loadFlags_pmemP (v : Byte) (s : State) : (loadFlags v s).pmemP = s.pmemP := rfl
@[simp] theorem loadFlags_cpuinfoAddr (v : Byte) (s : State) : (loadFlags v s).cpuinfoAddr = s.cpuinfoAddr := rfl
@[simp] theorem loadFlags_int0 (v : Byte) (s : State) : (loadFlags v s).int0 = s.int0 := rfl
@[simp] theorem loadFlags_int1 (v : Byte) (s : State) : (loadFlags v s).int1 = s.int1 := rfl
@[simp] theorem loadFlags_mem (v : Byte) (s : State) : (loadFlags v s).mem = s.mem := rfl
@[simp] theorem loadFlags_requests (v : Byte) (s : State) : (loadFlags v s).requests = s.requests := rfl
@[simp] theorem loadFlags_inputs (v : Byte) (s : State) : (loadFlags v s).inputs = s.inputs := rfl
@[simp] theorem loadFlags_ioLog (v : Byte) (s : State) : (loadFlags v s).ioLog = s.ioLog := rfl
@[simp] theorem loadFlags_draws (v : Byte) (s : State) : (loadFlags v s).draws = s.draws := rfl
@[simp] theorem loadFlags_cfg (v : Byte) (s : State) : (loadFlags v s).cfg = s.cfg := rfl

/-! ## `enterInterrupt` -/

@[simp] theorem enterInterrupt_a (k : BitVec 4) (s : State) : (enterInterrupt k s).a = s.a := rfl
@[simp] theorem enterInterrupt_b (k : BitVec 4) (s : State) : (enterInterrupt k s).b = s.b := rfl
@[simp] theorem enterInterrupt_c (k : BitVec 4) (s : State) : (enterInterrupt k s).c = s.c := rfl
@[simp] theorem enterInterrupt_x (k : BitVec 4) (s : State) : (enterInterrupt k s).x = s.x := rfl
@[simp] theorem enterInterrupt_pc (k : BitVec 4) (s : State) : (enterInterrupt k s).pc = s.pc := rfl
@[simp] theorem enterInterrupt_mc (k : BitVec 4) (s : State) : (enterInterrupt k s).mc = s.mc := rfl
@[simp] theorem enterInterrupt_ic (k : BitVec 4) (s : State) : (enterInterrupt k s).ic = (keepLow s.cfg.icBits (vectorOf k)).setWidth 17 := rfl
@[simp] theorem enterInterrupt_zf (k : BitVec 4) (s : State) : (enterInterrupt k s).zf = s.zf := rfl
@[simp] theorem enterInterrupt_mf (k : BitVec 4) (s : State) : (enterInterrupt k s).mf = s.mf := rfl
@[simp] theorem enterInterrupt_uf (k : BitVec 4) (s : State) : (enterInterrupt k s).uf = s.uf := rfl
@[simp] theorem enterInterrupt_off (k : BitVec 4) (s : State) : (enterInterrupt k s).off = s.off := rfl
@[simp] theorem enterInterrupt_cf (k : BitVec 4) (s : State) : (enterInterrupt k s).cf = s.cf := rfl
@[simp] theorem enterInterrupt_ae (k : BitVec 4) (s : State) : (enterInterrupt k s).ae = s.ae := rfl
@[simp] theorem enterInterrupt_tm (k : BitVec 4) (s : State) : (enterInterrupt k s).tm = s.tm := rfl
@[simp] theorem enterInterrupt_ef (k : BitVec 4) (s : State) : (enterInterrupt k s).ef = s.ef := rfl
@[simp] theorem enterInterrupt_inInt (k : BitVec 4) (s : State) : (enterInterrupt k s).inInt = true := rfl
@[simp] theorem enterInterrupt_numN (k : BitVec 4) (s : State) : (enterInterrupt k s).numN = s.numN := rfl
@[simp] theorem enterInterrupt_numV (k : BitVec 4) (s : State) : (enterInterrupt k s).numV = s.numV := rfl
@[simp] theorem enterInterrupt_wordK (k : BitVec 4) (s : State) : (enterInterrupt k s).wordK = s.wordK := rfl
@[simp] theorem enterInterrupt_wordV (k : BitVec 4) (s : State) : (enterInterrupt k s).wordV = s.wordV := rfl
@[simp] theorem enterInterrupt_wordG (k : BitVec 4) (s : State) : (enterInterrupt k s).wordG = s.wordG := rfl
@[simp] theorem enterInterrupt_opmsbP (k : BitVec 4) (s : State) : (enterInterrupt k s).opmsbP = s.opmsbP := rfl
@[simp] theorem enterInterrupt_pmemP (k : BitVec 4) (s : State) : (enterInterrupt k s).pmemP = s.pmemP := rfl
@[simp] theorem enterInterrupt_cpuinfoAddr (k : BitVec 4) (s : State) : (enterInterrupt k s).cpuinfoAddr = s.cpuinfoAddr := rfl
@[simp] theorem enterInterrupt_int0 (k : BitVec 4) (s : State) : (enterInterrupt k s).int0 = s.int0 := rfl
@[simp] theorem enterInterrupt_int1 (k : BitVec 4) (s : State) : (enterInterrupt k s).int1 = s.int1 := rfl
@[simp] theorem enterInterrupt_mem (k : BitVec 4) (s : State) : (enterInterrupt k s).mem = s.mem := rfl
@[simp] theorem enterInterrupt_requests (k : BitVec 4) (s : State) : (enterInterrupt k s).requests = s.requests := rfl
@[simp] theorem enterInterrupt_inputs (k : BitVec 4) (s : State) : (enterInterrupt k s).inputs = s.inputs := rfl
@[simp] theorem enterInterrupt_ioLog (k : BitVec 4) (s : State) : (enterInterrupt k s).ioLog = s.ioLog := rfl
@[simp] theorem enterInterrupt_draws (k : BitVec 4) (s : State) : (enterInterrupt k s).draws = s.draws := rfl
@[simp] theorem enterInterrupt_cfg (k : BitVec 4) (s : State) : (enterInterrupt k s).cfg = s.cfg := rfl

/-! ## `leaveInterrupt` -/

@[simp] theorem leaveInterrupt_a (v : Byte) (s : State) : (leaveInterrupt v s).a = s.a := rfl
@[simp] theorem leaveInterrupt_b (v : Byte) (s : State) : (leaveInterrupt v s).b = s.b := rfl
@[simp] theorem leaveInterrupt_c (v : Byte) (s : State) : (leaveInterrupt v s).c = s.c := rfl
@[simp] theorem leaveInterrupt_x (v : Byte) (s : State) : (leaveInterrupt v s).x = s.x := rfl
@[simp] theorem leaveInterrupt_pc (v : Byte) (s : State) : (leaveInterrupt v s).pc = s.pc := rfl
@[simp] theorem leaveInterrupt_mc (v : Byte) (s : State) : (leaveInterrupt v s).mc = s.mc := rfl
@[simp] theorem leaveInterrupt_ic (v : Byte) (s : State) : (leaveInterrupt v s).ic = s.ic := rfl
@[simp] theorem leaveInterrupt_zf (v : Byte) (s : State) : (leaveInterrupt v s).zf = v.getLsbD 0 := rfl
@[simp] theorem leaveInterrupt_mf (v : Byte) (s : State) : (leaveInterrupt v s).mf = v.getLsbD 1 := rfl
@[simp] theorem leaveInterrupt_uf (v : Byte) (s : State) : (leaveInterrupt v s).uf = if s.cfg.userMode then v.getLsbD 2 else s.uf := rfl
@[simp] theorem leaveInterrupt_off (v : Byte) (s : State) : (leaveInterrupt v s).off = v.extractLsb' 3 2 := rfl
@[simp] theorem leaveInterrupt_cf (v : Byte) (s : State) : (leaveInterrupt v s).cf = v.getLsbD 7 := rfl
@[simp] theorem leaveInterrupt_ae (v : Byte) (s : State) : (leaveInterrupt v s).ae = s.ae := rfl
@[simp] theorem leaveInterrupt_tm (v : Byte) (s : State) : (leaveInterrupt v s).tm = s.tm := rfl
@[simp] theorem leaveInterrupt_ef (v : Byte) (s : State) : (leaveInterrupt v s).ef = s.ef := rfl
@[simp] theorem leaveInterrupt_inInt (v : Byte) (s : State) : (leaveInterrupt v s).inInt = false := rfl
@[simp] theorem leaveInterrupt_numN (v : Byte) (s : State) : (leaveInterrupt v s).numN = s.numN := rfl
@[simp] theorem leaveInterrupt_numV (v : Byte) (s : State) : (leaveInterrupt v s).numV = s.numV := rfl
@[simp] theorem leaveInterrupt_wordK (v : Byte) (s : State) : (leaveInterrupt v s).wordK = s.wordK := rfl
@[simp] theorem leaveInterrupt_wordV (v : Byte) (s : State) : (leaveInterrupt v s).wordV = s.wordV := rfl
@[simp] theorem leaveInterrupt_wordG (v : Byte) (s : State) : (leaveInterrupt v s).wordG = s.wordG := rfl
@[simp] theorem leaveInterrupt_opmsbP (v : Byte) (s : State) : (leaveInterrupt v s).opmsbP = s.opmsbP := rfl
@[simp] theorem leaveInterrupt_pmemP (v : Byte) (s : State) : (leaveInterrupt v s).pmemP = s.pmemP := rfl
@[simp] theorem leaveInterrupt_cpuinfoAddr (v : Byte) (s : State) : (leaveInterrupt v s).cpuinfoAddr = s.cpuinfoAddr := rfl
@[simp] theorem leaveInterrupt_int0 (v : Byte) (s : State) : (leaveInterrupt v s).int0 = s.int0 := rfl
@[simp] theorem leaveInterrupt_int1 (v : Byte) (s : State) : (leaveInterrupt v s).int1 = s.int1 := rfl
@[simp] theorem leaveInterrupt_mem (v : Byte) (s : State) : (leaveInterrupt v s).mem = s.mem := rfl
@[simp] theorem leaveInterrupt_requests (v : Byte) (s : State) : (leaveInterrupt v s).requests = s.requests := rfl
@[simp] theorem leaveInterrupt_inputs (v : Byte) (s : State) : (leaveInterrupt v s).inputs = s.inputs := rfl
@[simp] theorem leaveInterrupt_ioLog (v : Byte) (s : State) : (leaveInterrupt v s).ioLog = s.ioLog := rfl
@[simp] theorem leaveInterrupt_draws (v : Byte) (s : State) : (leaveInterrupt v s).draws = s.draws := rfl
@[simp] theorem leaveInterrupt_cfg (v : Byte) (s : State) : (leaveInterrupt v s).cfg = s.cfg := rfl

/-! ## `takeAnswer` -/

@[simp] theorem takeAnswer_a (port : Word) (n : Nat) (v : Word) (s : State) : (takeAnswer port n v s).a = s.a := rfl
@[simp] theorem takeAnswer_b (port : Word) (n : Nat) (v : Word) (s : State) : (takeAnswer port n v s).b = s.b := rfl
@[simp] theorem takeAnswer_c (port : Word) (n : Nat) (v : Word) (s : State) : (takeAnswer port n v s).c = s.c := rfl
@[simp] theorem takeAnswer_x (port : Word) (n : Nat) (v : Word) (s : State) : (takeAnswer port n v s).x = s.x := rfl
@[simp] theorem takeAnswer_pc (port : Word) (n : Nat) (v : Word) (s : State) : (takeAnswer port n v s).pc = s.pc := rfl
@[simp] theorem takeAnswer_mc (port : Word) (n : Nat) (v : Word) (s : State) : (takeAnswer port n v s).mc = s.mc := rfl
@[simp] theorem takeAnswer_ic (port : Word) (n : Nat) (v : Word) (s : State) : (takeAnswer port n v s).ic = s.ic := rfl
@[simp] theorem takeAnswer_zf (port : Word) (n : Nat) (v : Word) (s : State) : (takeAnswer port n v s).zf = s.zf := rfl
@[simp] theorem takeAnswer_mf (port : Word) (n : Nat) (v : Word) (s : State) : (takeAnswer port n v s).mf = s.mf := rfl
@[simp] theorem takeAnswer_uf (port : Word) (n : Nat) (v : Word) (s : State) : (takeAnswer port n v s).uf = s.uf := rfl
@[simp] theorem takeAnswer_off (port : Word) (n : Nat) (v : Word) (s : State) : (takeAnswer port n v s).off = s.off := rfl
@[simp] theorem takeAnswer_cf (port : Word) (n : Nat) (v : Word) (s : State) : (takeAnswer port n v s).cf = s.cf := rfl
@[simp] theorem takeAnswer_ae (port : Word) (n : Nat) (v : Word) (s : State) : (takeAnswer port n v s).ae = s.ae := rfl
@[simp] theorem takeAnswer_tm (port : Word) (n : Nat) (v : Word) (s : State) : (takeAnswer port n v s).tm = s.tm := rfl
@[simp] theorem takeAnswer_ef (port : Word) (n : Nat) (v : Word) (s : State) : (takeAnswer port n v s).ef = s.ef := rfl
@[simp] theorem takeAnswer_inInt (port : Word) (n : Nat) (v : Word) (s : State) : (takeAnswer port n v s).inInt = s.inInt := rfl
@[simp] theorem takeAnswer_numN (port : Word) (n : Nat) (v : Word) (s : State) : (takeAnswer port n v s).numN = s.numN := rfl
@[simp] theorem takeAnswer_numV (port : Word) (n : Nat) (v : Word) (s : State) : (takeAnswer port n v s).numV = s.numV := rfl
@[simp] theorem takeAnswer_wordK (port : Word) (n : Nat) (v : Word) (s : State) : (takeAnswer port n v s).wordK = s.wordK := rfl
@[simp] theorem takeAnswer_wordV (port : Word) (n : Nat) (v : Word) (s : State) : (takeAnswer port n v s).wordV = s.wordV := rfl
@[simp] theorem takeAnswer_wordG (port : Word) (n : Nat) (v : Word) (s : State) : (takeAnswer port n v s).wordG = s.wordG := rfl
@[simp] theorem takeAnswer_opmsbP (port : Word) (n : Nat) (v : Word) (s : State) : (takeAnswer port n v s).opmsbP = s.opmsbP := rfl
@[simp] theorem takeAnswer_pmemP (port : Word) (n : Nat) (v : Word) (s : State) : (takeAnswer port n v s).pmemP = s.pmemP := rfl
@[simp] theorem takeAnswer_cpuinfoAddr (port : Word) (n : Nat) (v : Word) (s : State) : (takeAnswer port n v s).cpuinfoAddr = s.cpuinfoAddr := rfl
@[simp] theorem takeAnswer_int0 (port : Word) (n : Nat) (v : Word) (s : State) : (takeAnswer port n v s).int0 = s.int0 := rfl
@[simp] theorem takeAnswer_int1 (port : Word) (n : Nat) (v : Word) (s : State) : (takeAnswer port n v s).int1 = s.int1 := rfl
@[simp] theorem takeAnswer_mem (port : Word) (n : Nat) (v : Word) (s : State) : (takeAnswer port n v s).mem = s.mem := rfl
@[simp] theorem takeAnswer_requests (port : Word) (n : Nat) (v : Word) (s : State) : (takeAnswer port n v s).requests = s.requests := rfl
@[simp] theorem takeAnswer_inputs (port : Word) (n : Nat) (v : Word) (s : State) : (takeAnswer port n v s).inputs = s.inputs.tail := rfl
@[simp] theorem takeAnswer_ioLog (port : Word) (n : Nat) (v : Word) (s : State) : (takeAnswer port n v s).ioLog = .input port n v :: s.ioLog := rfl
@[simp] theorem takeAnswer_draws (port : Word) (n : Nat) (v : Word) (s : State) : (takeAnswer port n v s).draws = if s.inputs.isEmpty then s.draws + 1 else s.draws := rfl
@[simp] theorem takeAnswer_cfg (port : Word) (n : Nat) (v : Word) (s : State) : (takeAnswer port n v s).cfg = s.cfg := rfl

/-! ## `ioOut` -/

@[simp] theorem ioOut_a (port : Word) (n : Nat) (v : Word) (s : State) : (ioOut port n v s).a = s.a := rfl
@[simp] theorem ioOut_b (port : Word) (n : Nat) (v : Word) (s : State) : (ioOut port n v s).b = s.b := rfl
@[simp] theorem ioOut_c (port : Word) (n : Nat) (v : Word) (s : State) : (ioOut port n v s).c = s.c := rfl
@[simp] theorem ioOut_x (port : Word) (n : Nat) (v : Word) (s : State) : (ioOut port n v s).x = s.x := rfl
@[simp] theorem ioOut_pc (port : Word) (n : Nat) (v : Word) (s : State) : (ioOut port n v s).pc = s.pc := rfl
@[simp] theorem ioOut_mc (port : Word) (n : Nat) (v : Word) (s : State) : (ioOut port n v s).mc = s.mc := rfl
@[simp] theorem ioOut_ic (port : Word) (n : Nat) (v : Word) (s : State) : (ioOut port n v s).ic = s.ic := rfl
@[simp] theorem ioOut_zf (port : Word) (n : Nat) (v : Word) (s : State) : (ioOut port n v s).zf = s.zf := rfl
@[simp] theorem ioOut_mf (port : Word) (n : Nat) (v : Word) (s : State) : (ioOut port n v s).mf = s.mf := rfl
@[simp] theorem ioOut_uf (port : Word) (n : Nat) (v : Word) (s : State) : (ioOut port n v s).uf = s.uf := rfl
@[simp] theorem ioOut_off (port : Word) (n : Nat) (v : Word) (s : State) : (ioOut port n v s).off = s.off := rfl
@[simp] theorem ioOut_cf (port : Word) (n : Nat) (v : Word) (s : State) : (ioOut port n v s).cf = s.cf := rfl
@[simp] theorem ioOut_ae (port : Word) (n : Nat) (v : Word) (s : State) : (ioOut port n v s).ae = s.ae := rfl
@[simp] theorem ioOut_tm (port : Word) (n : Nat) (v : Word) (s : State) : (ioOut port n v s).tm = s.tm := rfl
@[simp] theorem ioOut_ef (port : Word) (n : Nat) (v : Word) (s : State) : (ioOut port n v s).ef = s.ef := rfl
@[simp] theorem ioOut_inInt (port : Word) (n : Nat) (v : Word) (s : State) : (ioOut port n v s).inInt = s.inInt := rfl
@[simp] theorem ioOut_numN (port : Word) (n : Nat) (v : Word) (s : State) : (ioOut port n v s).numN = s.numN := rfl
@[simp] theorem ioOut_numV (port : Word) (n : Nat) (v : Word) (s : State) : (ioOut port n v s).numV = s.numV := rfl
@[simp] theorem ioOut_wordK (port : Word) (n : Nat) (v : Word) (s : State) : (ioOut port n v s).wordK = s.wordK := rfl
@[simp] theorem ioOut_wordV (port : Word) (n : Nat) (v : Word) (s : State) : (ioOut port n v s).wordV = s.wordV := rfl
@[simp] theorem ioOut_wordG (port : Word) (n : Nat) (v : Word) (s : State) : (ioOut port n v s).wordG = s.wordG := rfl
@[simp] theorem ioOut_opmsbP (port : Word) (n : Nat) (v : Word) (s : State) : (ioOut port n v s).opmsbP = s.opmsbP := rfl
@[simp] theorem ioOut_pmemP (port : Word) (n : Nat) (v : Word) (s : State) : (ioOut port n v s).pmemP = s.pmemP := rfl
@[simp] theorem ioOut_cpuinfoAddr (port : Word) (n : Nat) (v : Word) (s : State) : (ioOut port n v s).cpuinfoAddr = s.cpuinfoAddr := rfl
@[simp] theorem ioOut_int0 (port : Word) (n : Nat) (v : Word) (s : State) : (ioOut port n v s).int0 = s.int0 := rfl
@[simp] theorem ioOut_int1 (port : Word) (n : Nat) (v : Word) (s : State) : (ioOut port n v s).int1 = s.int1 := rfl
@[simp] theorem ioOut_mem (port : Word) (n : Nat) (v : Word) (s : State) : (ioOut port n v s).mem = s.mem := rfl
@[simp] theorem ioOut_requests (port : Word) (n : Nat) (v : Word) (s : State) : (ioOut port n v s).requests = s.requests := rfl
@[simp] theorem ioOut_inputs (port : Word) (n : Nat) (v : Word) (s : State) : (ioOut port n v s).inputs = s.inputs := rfl
@[simp] theorem ioOut_ioLog (port : Word) (n : Nat) (v : Word) (s : State) : (ioOut port n v s).ioLog = .output port n v :: s.ioLog := rfl
@[simp] theorem ioOut_draws (port : Word) (n : Nat) (v : Word) (s : State) : (ioOut port n v s).draws = s.draws := rfl
@[simp] theorem ioOut_cfg (port : Word) (n : Nat) (v : Word) (s : State) : (ioOut port n v s).cfg = s.cfg := rfl

/-! ## `clearPrefixes` -/

@[simp] theorem clearPrefixes_a (i : Instr) (s : State) : (clearPrefixes i s).a = s.a := rfl
@[simp] theorem clearPrefixes_b (i : Instr) (s : State) : (clearPrefixes i s).b = s.b := rfl
@[simp] theorem clearPrefixes_c (i : Instr) (s : State) : (clearPrefixes i s).c = s.c := rfl
@[simp] theorem clearPrefixes_x (i : Instr) (s : State) : (clearPrefixes i s).x = s.x := rfl
@[simp] theorem clearPrefixes_pc (i : Instr) (s : State) : (clearPrefixes i s).pc = s.pc := rfl
@[simp] theorem clearPrefixes_mc (i : Instr) (s : State) : (clearPrefixes i s).mc = s.mc := rfl
@[simp] theorem clearPrefixes_ic (i : Instr) (s : State) : (clearPrefixes i s).ic = s.ic := rfl
@[simp] theorem clearPrefixes_zf (i : Instr) (s : State) : (clearPrefixes i s).zf = s.zf := rfl
@[simp] theorem clearPrefixes_mf (i : Instr) (s : State) : (clearPrefixes i s).mf = s.mf := rfl
@[simp] theorem clearPrefixes_uf (i : Instr) (s : State) : (clearPrefixes i s).uf = s.uf := rfl
@[simp] theorem clearPrefixes_off (i : Instr) (s : State) : (clearPrefixes i s).off = s.off := rfl
@[simp] theorem clearPrefixes_cf (i : Instr) (s : State) : (clearPrefixes i s).cf = s.cf := rfl
@[simp] theorem clearPrefixes_ae (i : Instr) (s : State) : (clearPrefixes i s).ae = s.ae := rfl
@[simp] theorem clearPrefixes_tm (i : Instr) (s : State) : (clearPrefixes i s).tm = s.tm := rfl
@[simp] theorem clearPrefixes_ef (i : Instr) (s : State) : (clearPrefixes i s).ef = s.ef := rfl
@[simp] theorem clearPrefixes_inInt (i : Instr) (s : State) : (clearPrefixes i s).inInt = s.inInt := rfl
@[simp] theorem clearPrefixes_numN (i : Instr) (s : State) : (clearPrefixes i s).numN = if keepsNum i then s.numN else .zero := rfl
@[simp] theorem clearPrefixes_numV (i : Instr) (s : State) : (clearPrefixes i s).numV = s.numV := rfl
@[simp] theorem clearPrefixes_wordK (i : Instr) (s : State) : (clearPrefixes i s).wordK = if keepsWord i then s.wordK else .none := rfl
@[simp] theorem clearPrefixes_wordV (i : Instr) (s : State) : (clearPrefixes i s).wordV = s.wordV := rfl
@[simp] theorem clearPrefixes_wordG (i : Instr) (s : State) : (clearPrefixes i s).wordG = s.wordG := rfl
@[simp] theorem clearPrefixes_opmsbP (i : Instr) (s : State) : (clearPrefixes i s).opmsbP = (keepsOpmsb i && s.opmsbP) := rfl
@[simp] theorem clearPrefixes_pmemP (i : Instr) (s : State) : (clearPrefixes i s).pmemP = false := rfl
@[simp] theorem clearPrefixes_cpuinfoAddr (i : Instr) (s : State) : (clearPrefixes i s).cpuinfoAddr = s.cpuinfoAddr := rfl
@[simp] theorem clearPrefixes_int0 (i : Instr) (s : State) : (clearPrefixes i s).int0 = s.int0 := rfl
@[simp] theorem clearPrefixes_int1 (i : Instr) (s : State) : (clearPrefixes i s).int1 = s.int1 := rfl
@[simp] theorem clearPrefixes_mem (i : Instr) (s : State) : (clearPrefixes i s).mem = s.mem := rfl
@[simp] theorem clearPrefixes_requests (i : Instr) (s : State) : (clearPrefixes i s).requests = s.requests := rfl
@[simp] theorem clearPrefixes_inputs (i : Instr) (s : State) : (clearPrefixes i s).inputs = s.inputs := rfl
@[simp] theorem clearPrefixes_ioLog (i : Instr) (s : State) : (clearPrefixes i s).ioLog = s.ioLog := rfl
@[simp] theorem clearPrefixes_draws (i : Instr) (s : State) : (clearPrefixes i s).draws = s.draws := rfl
@[simp] theorem clearPrefixes_cfg (i : Instr) (s : State) : (clearPrefixes i s).cfg = s.cfg := rfl

/-! ## `retire` -/

@[simp] theorem retire_a (i : Instr) (e : Bool) (s : State) : (retire i e s).a = s.a := rfl
@[simp] theorem retire_b (i : Instr) (e : Bool) (s : State) : (retire i e s).b = s.b := rfl
@[simp] theorem retire_c (i : Instr) (e : Bool) (s : State) : (retire i e s).c = s.c := rfl
@[simp] theorem retire_x (i : Instr) (e : Bool) (s : State) : (retire i e s).x = s.x := rfl
@[simp] theorem retire_pc (i : Instr) (e : Bool) (s : State) : (retire i e s).pc = s.pc := rfl
@[simp] theorem retire_mc (i : Instr) (e : Bool) (s : State) : (retire i e s).mc = s.mc := rfl
@[simp] theorem retire_ic (i : Instr) (e : Bool) (s : State) : (retire i e s).ic = s.ic := rfl
@[simp] theorem retire_zf (i : Instr) (e : Bool) (s : State) : (retire i e s).zf = s.zf := rfl
@[simp] theorem retire_mf (i : Instr) (e : Bool) (s : State) : (retire i e s).mf = if e then false else s.mf := rfl
@[simp] theorem retire_uf (i : Instr) (e : Bool) (s : State) : (retire i e s).uf = s.uf := rfl
@[simp] theorem retire_off (i : Instr) (e : Bool) (s : State) : (retire i e s).off = s.off := rfl
@[simp] theorem retire_cf (i : Instr) (e : Bool) (s : State) : (retire i e s).cf = s.cf := rfl
@[simp] theorem retire_ae (i : Instr) (e : Bool) (s : State) : (retire i e s).ae = s.ae := rfl
@[simp] theorem retire_tm (i : Instr) (e : Bool) (s : State) : (retire i e s).tm = s.tm := rfl
@[simp] theorem retire_ef (i : Instr) (e : Bool) (s : State) : (retire i e s).ef = s.ef := rfl
@[simp] theorem retire_inInt (i : Instr) (e : Bool) (s : State) : (retire i e s).inInt = s.inInt := rfl
@[simp] theorem retire_numN (i : Instr) (e : Bool) (s : State) : (retire i e s).numN = if keepsNum i then s.numN else .zero := rfl
@[simp] theorem retire_numV (i : Instr) (e : Bool) (s : State) : (retire i e s).numV = s.numV := rfl
@[simp] theorem retire_wordK (i : Instr) (e : Bool) (s : State) : (retire i e s).wordK = if keepsWord i then s.wordK else .none := rfl
@[simp] theorem retire_wordV (i : Instr) (e : Bool) (s : State) : (retire i e s).wordV = s.wordV := rfl
@[simp] theorem retire_wordG (i : Instr) (e : Bool) (s : State) : (retire i e s).wordG = s.wordG := rfl
@[simp] theorem retire_opmsbP (i : Instr) (e : Bool) (s : State) : (retire i e s).opmsbP = (keepsOpmsb i && s.opmsbP) := rfl
@[simp] theorem retire_pmemP (i : Instr) (e : Bool) (s : State) : (retire i e s).pmemP = false := rfl
@[simp] theorem retire_cpuinfoAddr (i : Instr) (e : Bool) (s : State) : (retire i e s).cpuinfoAddr = s.cpuinfoAddr := rfl
@[simp] theorem retire_int0 (i : Instr) (e : Bool) (s : State) : (retire i e s).int0 = s.int0 := rfl
@[simp] theorem retire_int1 (i : Instr) (e : Bool) (s : State) : (retire i e s).int1 = s.int1 := rfl
@[simp] theorem retire_mem (i : Instr) (e : Bool) (s : State) : (retire i e s).mem = s.mem := rfl
@[simp] theorem retire_requests (i : Instr) (e : Bool) (s : State) : (retire i e s).requests = s.requests := rfl
@[simp] theorem retire_inputs (i : Instr) (e : Bool) (s : State) : (retire i e s).inputs = s.inputs := rfl
@[simp] theorem retire_ioLog (i : Instr) (e : Bool) (s : State) : (retire i e s).ioLog = s.ioLog := rfl
@[simp] theorem retire_draws (i : Instr) (e : Bool) (s : State) : (retire i e s).draws = s.draws := rfl
@[simp] theorem retire_cfg (i : Instr) (e : Bool) (s : State) : (retire i e s).cfg = s.cfg := rfl

/-! ## `setXC`, `advance`: the counters -/

@[simp] theorem setXC_a (v : Pair) (s : State) : (setXC v s).a = s.a := by
  unfold setXC; split_ifs <;> rfl
@[simp] theorem setXC_b (v : Pair) (s : State) : (setXC v s).b = s.b := by
  unfold setXC; split_ifs <;> rfl
@[simp] theorem setXC_c (v : Pair) (s : State) : (setXC v s).c = s.c := by
  unfold setXC; split_ifs <;> rfl
@[simp] theorem setXC_x (v : Pair) (s : State) : (setXC v s).x = s.x := by
  unfold setXC; split_ifs <;> rfl
@[simp] theorem setXC_zf (v : Pair) (s : State) : (setXC v s).zf = s.zf := by
  unfold setXC; split_ifs <;> rfl
@[simp] theorem setXC_mf (v : Pair) (s : State) : (setXC v s).mf = s.mf := by
  unfold setXC; split_ifs <;> rfl
@[simp] theorem setXC_uf (v : Pair) (s : State) : (setXC v s).uf = s.uf := by
  unfold setXC; split_ifs <;> rfl
@[simp] theorem setXC_off (v : Pair) (s : State) : (setXC v s).off = s.off := by
  unfold setXC; split_ifs <;> rfl
@[simp] theorem setXC_cf (v : Pair) (s : State) : (setXC v s).cf = s.cf := by
  unfold setXC; split_ifs <;> rfl
@[simp] theorem setXC_ae (v : Pair) (s : State) : (setXC v s).ae = s.ae := by
  unfold setXC; split_ifs <;> rfl
@[simp] theorem setXC_tm (v : Pair) (s : State) : (setXC v s).tm = s.tm := by
  unfold setXC; split_ifs <;> rfl
@[simp] theorem setXC_ef (v : Pair) (s : State) : (setXC v s).ef = s.ef := by
  unfold setXC; split_ifs <;> rfl
@[simp] theorem setXC_inInt (v : Pair) (s : State) : (setXC v s).inInt = s.inInt := by
  unfold setXC; split_ifs <;> rfl
@[simp] theorem setXC_numN (v : Pair) (s : State) : (setXC v s).numN = s.numN := by
  unfold setXC; split_ifs <;> rfl
@[simp] theorem setXC_numV (v : Pair) (s : State) : (setXC v s).numV = s.numV := by
  unfold setXC; split_ifs <;> rfl
@[simp] theorem setXC_wordK (v : Pair) (s : State) : (setXC v s).wordK = s.wordK := by
  unfold setXC; split_ifs <;> rfl
@[simp] theorem setXC_wordV (v : Pair) (s : State) : (setXC v s).wordV = s.wordV := by
  unfold setXC; split_ifs <;> rfl
@[simp] theorem setXC_wordG (v : Pair) (s : State) : (setXC v s).wordG = s.wordG := by
  unfold setXC; split_ifs <;> rfl
@[simp] theorem setXC_opmsbP (v : Pair) (s : State) : (setXC v s).opmsbP = s.opmsbP := by
  unfold setXC; split_ifs <;> rfl
@[simp] theorem setXC_pmemP (v : Pair) (s : State) : (setXC v s).pmemP = s.pmemP := by
  unfold setXC; split_ifs <;> rfl
@[simp] theorem setXC_cpuinfoAddr (v : Pair) (s : State) : (setXC v s).cpuinfoAddr = s.cpuinfoAddr := by
  unfold setXC; split_ifs <;> rfl
@[simp] theorem setXC_int0 (v : Pair) (s : State) : (setXC v s).int0 = s.int0 := by
  unfold setXC; split_ifs <;> rfl
@[simp] theorem setXC_int1 (v : Pair) (s : State) : (setXC v s).int1 = s.int1 := by
  unfold setXC; split_ifs <;> rfl
@[simp] theorem setXC_mem (v : Pair) (s : State) : (setXC v s).mem = s.mem := by
  unfold setXC; split_ifs <;> rfl
@[simp] theorem setXC_requests (v : Pair) (s : State) : (setXC v s).requests = s.requests := by
  unfold setXC; split_ifs <;> rfl
@[simp] theorem setXC_inputs (v : Pair) (s : State) : (setXC v s).inputs = s.inputs := by
  unfold setXC; split_ifs <;> rfl
@[simp] theorem setXC_ioLog (v : Pair) (s : State) : (setXC v s).ioLog = s.ioLog := by
  unfold setXC; split_ifs <;> rfl
@[simp] theorem setXC_draws (v : Pair) (s : State) : (setXC v s).draws = s.draws := by
  unfold setXC; split_ifs <;> rfl
@[simp] theorem setXC_cfg (v : Pair) (s : State) : (setXC v s).cfg = s.cfg := by
  unfold setXC; split_ifs <;> rfl

@[simp] theorem setXC_pc (v : Pair) (s : State) :
    (setXC v s).pc = if s.inInt || s.mf then s.pc else (keepLow s.cfg.pcBits v).setWidth 25 := by
  unfold setXC; split_ifs <;> simp_all

@[simp] theorem setXC_mc (v : Pair) (s : State) :
    (setXC v s).mc = if !s.inInt && s.mf then (keepLow s.cfg.mcBits v).setWidth 17 else s.mc := by
  unfold setXC; split_ifs <;> simp_all

@[simp] theorem setXC_ic (v : Pair) (s : State) :
    (setXC v s).ic = if s.inInt then (keepLow s.cfg.icBits v).setWidth 17 else s.ic := by
  unfold setXC; split_ifs <;> simp_all

@[simp] theorem advance_a (n : Nat) (s : State) : (advance n s).a = s.a := setXC_a _ s
@[simp] theorem advance_b (n : Nat) (s : State) : (advance n s).b = s.b := setXC_b _ s
@[simp] theorem advance_c (n : Nat) (s : State) : (advance n s).c = s.c := setXC_c _ s
@[simp] theorem advance_x (n : Nat) (s : State) : (advance n s).x = s.x := setXC_x _ s
@[simp] theorem advance_zf (n : Nat) (s : State) : (advance n s).zf = s.zf := setXC_zf _ s
@[simp] theorem advance_mf (n : Nat) (s : State) : (advance n s).mf = s.mf := setXC_mf _ s
@[simp] theorem advance_uf (n : Nat) (s : State) : (advance n s).uf = s.uf := setXC_uf _ s
@[simp] theorem advance_off (n : Nat) (s : State) : (advance n s).off = s.off := setXC_off _ s
@[simp] theorem advance_cf (n : Nat) (s : State) : (advance n s).cf = s.cf := setXC_cf _ s
@[simp] theorem advance_ae (n : Nat) (s : State) : (advance n s).ae = s.ae := setXC_ae _ s
@[simp] theorem advance_tm (n : Nat) (s : State) : (advance n s).tm = s.tm := setXC_tm _ s
@[simp] theorem advance_ef (n : Nat) (s : State) : (advance n s).ef = s.ef := setXC_ef _ s
@[simp] theorem advance_inInt (n : Nat) (s : State) : (advance n s).inInt = s.inInt := setXC_inInt _ s
@[simp] theorem advance_numN (n : Nat) (s : State) : (advance n s).numN = s.numN := setXC_numN _ s
@[simp] theorem advance_numV (n : Nat) (s : State) : (advance n s).numV = s.numV := setXC_numV _ s
@[simp] theorem advance_wordK (n : Nat) (s : State) : (advance n s).wordK = s.wordK := setXC_wordK _ s
@[simp] theorem advance_wordV (n : Nat) (s : State) : (advance n s).wordV = s.wordV := setXC_wordV _ s
@[simp] theorem advance_wordG (n : Nat) (s : State) : (advance n s).wordG = s.wordG := setXC_wordG _ s
@[simp] theorem advance_opmsbP (n : Nat) (s : State) : (advance n s).opmsbP = s.opmsbP := setXC_opmsbP _ s
@[simp] theorem advance_pmemP (n : Nat) (s : State) : (advance n s).pmemP = s.pmemP := setXC_pmemP _ s
@[simp] theorem advance_cpuinfoAddr (n : Nat) (s : State) : (advance n s).cpuinfoAddr = s.cpuinfoAddr := setXC_cpuinfoAddr _ s
@[simp] theorem advance_int0 (n : Nat) (s : State) : (advance n s).int0 = s.int0 := setXC_int0 _ s
@[simp] theorem advance_int1 (n : Nat) (s : State) : (advance n s).int1 = s.int1 := setXC_int1 _ s
@[simp] theorem advance_mem (n : Nat) (s : State) : (advance n s).mem = s.mem := setXC_mem _ s
@[simp] theorem advance_requests (n : Nat) (s : State) : (advance n s).requests = s.requests := setXC_requests _ s
@[simp] theorem advance_inputs (n : Nat) (s : State) : (advance n s).inputs = s.inputs := setXC_inputs _ s
@[simp] theorem advance_ioLog (n : Nat) (s : State) : (advance n s).ioLog = s.ioLog := setXC_ioLog _ s
@[simp] theorem advance_draws (n : Nat) (s : State) : (advance n s).draws = s.draws := setXC_draws _ s
@[simp] theorem advance_cfg (n : Nat) (s : State) : (advance n s).cfg = s.cfg := setXC_cfg _ s

/-! ## `takeRequests` -/

@[simp] theorem takeRequests_a (s : State) : (takeRequests s).a = s.a := by
  unfold takeRequests; split <;> rfl
@[simp] theorem takeRequests_b (s : State) : (takeRequests s).b = s.b := by
  unfold takeRequests; split <;> rfl
@[simp] theorem takeRequests_c (s : State) : (takeRequests s).c = s.c := by
  unfold takeRequests; split <;> rfl
@[simp] theorem takeRequests_x (s : State) : (takeRequests s).x = s.x := by
  unfold takeRequests; split <;> rfl
@[simp] theorem takeRequests_pc (s : State) : (takeRequests s).pc = s.pc := by
  unfold takeRequests; split <;> rfl
@[simp] theorem takeRequests_mc (s : State) : (takeRequests s).mc = s.mc := by
  unfold takeRequests; split <;> rfl
@[simp] theorem takeRequests_ic (s : State) : (takeRequests s).ic = s.ic := by
  unfold takeRequests; split <;> rfl
@[simp] theorem takeRequests_zf (s : State) : (takeRequests s).zf = s.zf := by
  unfold takeRequests; split <;> rfl
@[simp] theorem takeRequests_mf (s : State) : (takeRequests s).mf = s.mf := by
  unfold takeRequests; split <;> rfl
@[simp] theorem takeRequests_uf (s : State) : (takeRequests s).uf = s.uf := by
  unfold takeRequests; split <;> rfl
@[simp] theorem takeRequests_off (s : State) : (takeRequests s).off = s.off := by
  unfold takeRequests; split <;> rfl
@[simp] theorem takeRequests_cf (s : State) : (takeRequests s).cf = s.cf := by
  unfold takeRequests; split <;> rfl
@[simp] theorem takeRequests_ae (s : State) : (takeRequests s).ae = s.ae := by
  unfold takeRequests; split <;> rfl
@[simp] theorem takeRequests_tm (s : State) : (takeRequests s).tm = s.tm := by
  unfold takeRequests; split <;> rfl
@[simp] theorem takeRequests_ef (s : State) : (takeRequests s).ef = s.ef := by
  unfold takeRequests; split <;> rfl
@[simp] theorem takeRequests_inInt (s : State) : (takeRequests s).inInt = s.inInt := by
  unfold takeRequests; split <;> rfl
@[simp] theorem takeRequests_numN (s : State) : (takeRequests s).numN = s.numN := by
  unfold takeRequests; split <;> rfl
@[simp] theorem takeRequests_numV (s : State) : (takeRequests s).numV = s.numV := by
  unfold takeRequests; split <;> rfl
@[simp] theorem takeRequests_wordK (s : State) : (takeRequests s).wordK = s.wordK := by
  unfold takeRequests; split <;> rfl
@[simp] theorem takeRequests_wordV (s : State) : (takeRequests s).wordV = s.wordV := by
  unfold takeRequests; split <;> rfl
@[simp] theorem takeRequests_wordG (s : State) : (takeRequests s).wordG = s.wordG := by
  unfold takeRequests; split <;> rfl
@[simp] theorem takeRequests_opmsbP (s : State) : (takeRequests s).opmsbP = s.opmsbP := by
  unfold takeRequests; split <;> rfl
@[simp] theorem takeRequests_pmemP (s : State) : (takeRequests s).pmemP = s.pmemP := by
  unfold takeRequests; split <;> rfl
@[simp] theorem takeRequests_cpuinfoAddr (s : State) : (takeRequests s).cpuinfoAddr = s.cpuinfoAddr := by
  unfold takeRequests; split <;> rfl
@[simp] theorem takeRequests_mem (s : State) : (takeRequests s).mem = s.mem := by
  unfold takeRequests; split <;> rfl
@[simp] theorem takeRequests_inputs (s : State) : (takeRequests s).inputs = s.inputs := by
  unfold takeRequests; split <;> rfl
@[simp] theorem takeRequests_ioLog (s : State) : (takeRequests s).ioLog = s.ioLog := by
  unfold takeRequests; split <;> rfl
@[simp] theorem takeRequests_draws (s : State) : (takeRequests s).draws = s.draws := by
  unfold takeRequests; split <;> rfl
@[simp] theorem takeRequests_cfg (s : State) : (takeRequests s).cfg = s.cfg := by
  unfold takeRequests; split <;> rfl

end Sys2Proof.Machine
end

