-- ==== Sys2Proof/Laws/Ops.lean ====
section
/-! SUPPORT. For each shared operation, once, everything it can do: the byte, word and triple accesses, and what they leave. -/

namespace Sys2Proof.Machine

/-! ## Sequencing -/

@[simp] theorem Res.andThen_ok {α β : Type} (v : α) (s : State) (k : α → State → Res β) :
    Res.andThen (.ok (v, s)) k = k v s := rfl

@[simp] theorem Res.andThen_error {α β : Type} (f : Fault) (k : α → State → Res β) :
    Res.andThen (.error f) k = .error f := rfl

@[simp] theorem Res.finish_ok {α : Type} (v : α) (s : State) (k : α → State → State) :
    Res.finish (.ok (v, s)) k = .next (k v s) := rfl

@[simp] theorem Res.finish_error {α : Type} (f : Fault) (k : α → State → State) :
    Res.finish (α := α) (.error f) k = .fault f := rfl

/-- What an instruction that ends with `finish` answers as its next state. -/
theorem Res.finish_next {α : Type} {r : Res α} {k : α → State → State} {t : State}
    (h : Res.finish r k = .next t) : ∃ v u, r = .ok (v, u) ∧ t = k v u := by
  match r with
  | .error f => simp [Res.finish] at h
  | .ok (v, u) => exact ⟨v, u, rfl, by simpa [Res.finish] using h.symm⟩

/-- What a sequence answers. -/
theorem Res.andThen_eq_ok {α β : Type} {r : Res α} {k : α → State → Res β} {p : β × State}
    (h : Res.andThen r k = .ok p) : ∃ v u, r = .ok (v, u) ∧ k v u = .ok p := by
  match r with
  | .error f => simp [Res.andThen] at h
  | .ok (v, u) => exact ⟨v, u, rfl, h⟩

/-! ## One data byte -/

theorem readByteAt_plain {r : Bool} {addr : Triple} {s : State} (h : plainAt r addr s = true) :
    readByteAt r addr s = .ok (byteAt addr s, s) := by
  simp only [plainAt, Bool.and_eq_true, Bool.not_eq_true', decide_eq_true_eq] at h
  simp [readByteAt, h, byteAt]

theorem readByteAt_protected {r : Bool} {addr : Triple} {s : State} (h : isProtected s r addr = true) :
    readByteAt r addr s = .ok (Config.drawByte s.draws, afterRefusal 1 s) := by
  simp [readByteAt, h, afterRefusal]

theorem readByteAt_absent {r : Bool} {addr : Triple} {s : State} (h : isProtected s r addr = false)
    (m : s.cfg.memBytes ≤ physical s addr) : readByteAt r addr s = .error .noMemory := by
  simp [readByteAt, h, Nat.not_lt.mpr m]

/-- What a byte read leaves: AE and the count of free values may have changed. -/
theorem readByteAt_frame {r : Bool} {addr : Triple} {s t : State} {v : Byte}
    (h : readByteAt r addr s = .ok (v, t)) : t = { s with ae := t.ae, draws := t.draws } := by
  unfold readByteAt at h
  split_ifs at h <;> simp only [Except.ok.injEq, Prod.mk.injEq] at h <;> rw [← h.2]

/-- A direct access leaves everything. -/
theorem readByteAt_direct {addr : Triple} {s t : State} {v : Byte}
    (h : readByteAt false addr s = .ok (v, t)) : t = s := by
  unfold readByteAt at h
  simp only [isProtected, Bool.and_false, Bool.false_and, Bool.false_eq_true, if_false] at h
  split_ifs at h
  simp only [Except.ok.injEq, Prod.mk.injEq] at h
  exact h.2.symm

theorem writeByteAt_storable {r : Bool} {addr : Triple} {v : Byte} {s : State} (h : storableAt r addr s = true) :
    writeByteAt r addr v s = .ok ((), putByte addr v s) := by
  simp only [storableAt, plainAt, Bool.and_eq_true, Bool.not_eq_true', decide_eq_true_eq] at h
  simp [writeByteAt, h, putByte]

theorem writeByteAt_protected {r : Bool} {addr : Triple} {v : Byte} {s : State} (h : isProtected s r addr = true) :
    writeByteAt r addr v s = .ok ((), { s with ae := true }) := by
  simp [writeByteAt, h]

theorem writeByteAt_dropped {r : Bool} {addr : Triple} {v : Byte} {s : State} (h : isProtected s r addr = false)
    (d : (s.pmemP && userMode s) = true) : writeByteAt r addr v s = .ok ((), s) := by
  unfold writeByteAt; rw [h, d]; rfl

theorem writeByteAt_absent {r : Bool} {addr : Triple} {v : Byte} {s : State} (h : isProtected s r addr = false)
    (d : (s.pmemP && userMode s) = false) (m : s.cfg.memBytes ≤ physical s addr) :
    writeByteAt r addr v s = .error .noMemory := by
  unfold writeByteAt; rw [h, d]; simp [Nat.not_lt.mpr m]

theorem writeByteAt_adjacent {r : Bool} {addr : Triple} {v : Byte} {s : State} (h : plainAt r addr s = true)
    (d : (s.pmemP && userMode s) = false) (a : hitsNext s (physical s addr) = true) :
    writeByteAt r addr v s = .error .smcAdjacent := by
  simp only [plainAt, Bool.and_eq_true, Bool.not_eq_true', decide_eq_true_eq] at h
  unfold writeByteAt; rw [h.1, d]; simp [h.2, a]

/-- What a byte write leaves: the byte at its physical address and AE may have changed. -/
theorem writeByteAt_frame {r : Bool} {addr : Triple} {v : Byte} {s t : State} {u : Unit}
    (h : writeByteAt r addr v s = .ok (u, t)) :
    t = { s with mem := t.mem, ae := t.ae } ∧ MemoryKeptOutside [physical s addr] s t := by
  unfold writeByteAt at h
  split_ifs at h <;> simp only [Except.ok.injEq, Prod.mk.injEq, true_and] at h <;> subst h
  · exact ⟨rfl, fun p _ => rfl⟩
  · exact ⟨rfl, fun p _ => rfl⟩
  · refine ⟨rfl, fun p hp => ?_⟩
    exact Memory.read_write_other (by simpa using hp) v s.mem

/-- A byte write keeps the canonical form and the bound of the memory. -/
theorem writeByteAt_memory {r : Bool} {addr : Triple} {v : Byte} {s t : State} {u : Unit}
    (h : writeByteAt r addr v s = .ok (u, t)) (w : s.mem.wf = true) (b : s.mem.below s.cfg.memBytes = true) :
    t.mem.wf = true ∧ t.mem.below t.cfg.memBytes = true := by
  unfold writeByteAt at h
  split_ifs at h with h1 h2 h3 h4 <;> simp only [Except.ok.injEq, Prod.mk.injEq, true_and] at h <;> subst h
  · exact ⟨w, b⟩
  · exact ⟨w, b⟩
  · exact ⟨Memory.wf_write _ _ _ w, Memory.below_write h3 _ _ b⟩

/-- A direct write leaves AE. -/
theorem writeByteAt_direct {addr : Triple} {v : Byte} {s t : State} {u : Unit}
    (h : writeByteAt false addr v s = .ok (u, t)) : t.ae = s.ae := by
  unfold writeByteAt at h
  simp only [isProtected, Bool.and_false, Bool.false_and, Bool.false_eq_true, if_false] at h
  split_ifs at h <;> simp only [Except.ok.injEq, Prod.mk.injEq, true_and] at h <;> subst h <;> rfl

/-! ## Addresses of the bytes of a word -/

/-- The upper byte of an even address does not wrap. -/
theorem even_succ {addr : Triple} (h : oddAddress addr = false) : (addr + 1).toNat = addr.toNat + 1 := by
  have h0 : addr.toNat % 2 = 0 := by
    have := h
    simp only [oddAddress, BitVec.getLsbD, Nat.testBit_zero] at this
    simpa using this
  have hl := addr.isLt
  rw [BitVec.toNat_add, show (1 : Triple).toNat = 1 from rfl]
  omega

/-- The upper byte of an even address stands next to the lower one. -/
theorem physical_succ {addr : Triple} (s : State) (h : oddAddress addr = false) :
    physical s (addr + 1) = physical s addr + 1 := by
  unfold physical; rw [even_succ h]; split_ifs <;> omega

/-- If the upper byte of an even address is protected, so is the lower one. -/
theorem protected_of_succ {r : Bool} {addr : Triple} {s : State} (e : oddAddress addr = false)
    (h : isProtected s r (addr + 1) = true) : isProtected s r addr = true := by
  simp only [isProtected, Bool.and_eq_true, decide_eq_true_eq] at h ⊢
  rw [even_succ e] at h
  exact ⟨h.1, by omega⟩

/-- If the lower byte of an even address is not protected, neither is the upper one. -/
theorem unprotected_succ {r : Bool} {addr : Triple} {s : State} (e : oddAddress addr = false)
    (h : isProtected s r addr = false) : isProtected s r (addr + 1) = false := by
  cases hp : isProtected s r (addr + 1) with
  | false => rfl
  | true => rw [protected_of_succ e hp] at h; exact h

/-! ## A store beside the next instruction leaves it -/

/-- A byte stored that is no byte of the next instruction leaves which bytes those are. -/
theorem hitsNext_putByte {addr : Triple} {v : Byte} {s : State} (h : hitsNext s (physical s addr) = false) (p : Nat) :
    hitsNext (putByte addr v s) p = hitsNext s p := by
  have e : nextIsTwoWords (putByte addr v s) = nextIsTwoWords s := by
    unfold nextIsTwoWords
    change (decide ((activeCounter s).toNat + 1 < programEnd s) && _) =
      (decide ((activeCounter s).toNat + 1 < programEnd s) && _)
    by_cases hp : (activeCounter s).toNat + 1 < programEnd s
    · have h0 : physical s addr ≠ (activeCounter s).toNat ∧ physical s addr ≠ (activeCounter s).toNat + 1 := by
        simp only [hitsNext, inWordAt, Bool.and_eq_false_iff, decide_eq_false_iff_not, Bool.or_eq_false_iff,
          beq_eq_false_iff_ne] at h
        rcases h with h | h
        · omega
        · exact h.1
      have hw : wordAt (putByte addr v s) (activeCounter s).toNat = wordAt s (activeCounter s).toNat := by
        simp only [wordAt, putByte]
        rw [Memory.read_write_other (Ne.symm h0.1), Memory.read_write_other (Ne.symm h0.2)]
      change (_ && needsSecondWord _ (wordAt (putByte addr v s) (activeCounter s).toNat)) = _
      rw [hw]; rfl
    · simp [hp]
  unfold hitsNext
  rw [e]; rfl

/-! ## Words and triples -/

theorem readWordAt_odd {r : Bool} {addr : Triple} {s : State} (h : oddAddress addr = true) :
    readWordAt r addr s = .error .misaligned := by simp [readWordAt, h]

theorem readWordAt_plain {r : Bool} {addr : Triple} {s : State} (e : oddAddress addr = false)
    (h : plainAt r addr s = true) (h1 : plainAt r (addr + 1) s = true) :
    readWordAt r addr s = .ok (wordAtData addr s, s) := by
  simp only [readWordAt, e, Bool.false_eq_true, if_false, readByteAt_plain h, Res.andThen_ok, readByteAt_plain h1, wordAtData]

theorem writeWordAt_odd {r : Bool} {addr : Triple} {v : Word} {s : State} (h : oddAddress addr = true) :
    writeWordAt r addr v s = .error .misaligned := by simp [writeWordAt, h]

/-- A byte stored leaves whether another byte may be stored. -/
theorem storableAt_putByte {r r' : Bool} {addr addr' : Triple} {v : Byte} {s : State} (h : storableAt r addr s = true) :
    storableAt r' addr' (putByte addr v s) = storableAt r' addr' s := by
  have hn : hitsNext s (physical s addr) = false := by
    simp only [storableAt, Bool.and_eq_true, Bool.not_eq_true'] at h; exact h.2
  change (plainAt r' addr' s && !(s.pmemP && userMode s) && !hitsNext (putByte addr v s) (physical s addr')) = _
  rw [hitsNext_putByte hn]; rfl

theorem writeWordAt_storable {r : Bool} {addr : Triple} {v : Word} {s : State} (e : oddAddress addr = false)
    (h : storableAt r addr s = true) (h1 : storableAt r (addr + 1) s = true) :
    writeWordAt r addr v s = .ok ((), putWord addr v s) := by
  have h2 : storableAt r (addr + 1) (putByte addr (v.setWidth 8) s) = true := by rw [storableAt_putByte h, h1]
  have hv : v.extractLsb' 0 8 = v.setWidth 8 := by ext i hi; simp
  simp only [writeWordAt, e, Bool.false_eq_true, if_false, writeByteAt_storable h, Res.andThen_ok, writeByteAt_storable h2,
    putWord, hv]

/-- What a word read leaves. -/
theorem readWordAt_frame {r : Bool} {addr : Triple} {s t : State} {v : Word}
    (h : readWordAt r addr s = .ok (v, t)) : t = { s with ae := t.ae, draws := t.draws } := by
  unfold readWordAt at h
  split_ifs at h
  obtain ⟨lo, s1, h1, h⟩ := Res.andThen_eq_ok h
  obtain ⟨hi, s2, h2, h⟩ := Res.andThen_eq_ok h
  have f1 := readByteAt_frame h1
  have f2 := readByteAt_frame h2
  simp only [Except.ok.injEq, Prod.mk.injEq] at h
  rw [← h.2, f2, f1]

/-- What a word write leaves. -/
theorem writeWordAt_frame {r : Bool} {addr : Triple} {v : Word} {s t : State} {u : Unit}
    (h : writeWordAt r addr v s = .ok (u, t)) :
    t = { s with mem := t.mem, ae := t.ae } ∧ MemoryKeptOutside [physical s addr, physical s (addr + 1)] s t := by
  unfold writeWordAt at h
  split_ifs at h
  obtain ⟨_, s1, h1, h2⟩ := Res.andThen_eq_ok h
  obtain ⟨f1, m1⟩ := writeByteAt_frame h1
  obtain ⟨f2, m2⟩ := writeByteAt_frame h2
  have hp : physical s1 (addr + 1) = physical s (addr + 1) := by rw [f1]; rfl
  refine ⟨by rw [f2, f1], fun p hp' => ?_⟩
  simp only [List.mem_cons, List.not_mem_nil, or_false, not_or] at hp'
  rw [m2 p (by rw [hp]; simpa using hp'.2), m1 p (by simpa using hp'.1)]

/-- A word write keeps the canonical form and the bound of the memory. -/
theorem writeWordAt_memory {r : Bool} {addr : Triple} {v : Word} {s t : State} {u : Unit}
    (h : writeWordAt r addr v s = .ok (u, t)) (w : s.mem.wf = true) (b : s.mem.below s.cfg.memBytes = true) :
    t.mem.wf = true ∧ t.mem.below t.cfg.memBytes = true := by
  unfold writeWordAt at h
  split_ifs at h
  obtain ⟨_, s1, h1, h2⟩ := Res.andThen_eq_ok h
  obtain ⟨w1, b1⟩ := writeByteAt_memory h1 w b
  exact writeByteAt_memory h2 w1 b1

/-- What a triple write leaves. -/
theorem writeTripleAt_frame {r : Bool} {addr : Triple} {v : Triple} {s t : State} {u : Unit}
    (h : writeTripleAt r addr v s = .ok (u, t)) :
    t = { s with mem := t.mem, ae := t.ae } ∧
      MemoryKeptOutside [physical s addr, physical s (addr + 1), physical s (addr + 2)] s t := by
  unfold writeTripleAt at h
  split_ifs at h
  obtain ⟨_, s1, h1, h⟩ := Res.andThen_eq_ok h
  obtain ⟨_, s2, h2, h3⟩ := Res.andThen_eq_ok h
  obtain ⟨f1, m1⟩ := writeByteAt_frame h1
  obtain ⟨f2, m2⟩ := writeByteAt_frame h2
  obtain ⟨f3, m3⟩ := writeByteAt_frame h3
  have hp1 : physical s1 (addr + 1) = physical s (addr + 1) := by rw [f1]; rfl
  have hp2 : physical s2 (addr + 2) = physical s (addr + 2) := by rw [f2, f1]; rfl
  refine ⟨by rw [f3, f2, f1], fun p hp' => ?_⟩
  simp only [List.mem_cons, List.not_mem_nil, or_false, not_or] at hp'
  rw [m3 p (by rw [hp2]; simpa using hp'.2.2), m2 p (by rw [hp1]; simpa using hp'.2.1), m1 p (by simpa using hp'.1)]

/-- A triple write keeps the canonical form and the bound of the memory. -/
theorem writeTripleAt_memory {r : Bool} {addr : Triple} {v : Triple} {s t : State} {u : Unit}
    (h : writeTripleAt r addr v s = .ok (u, t)) (w : s.mem.wf = true) (b : s.mem.below s.cfg.memBytes = true) :
    t.mem.wf = true ∧ t.mem.below t.cfg.memBytes = true := by
  unfold writeTripleAt at h
  split_ifs at h
  obtain ⟨_, s1, h1, h⟩ := Res.andThen_eq_ok h
  obtain ⟨_, s2, h2, h3⟩ := Res.andThen_eq_ok h
  obtain ⟨w1, b1⟩ := writeByteAt_memory h1 w b
  obtain ⟨w2, b2⟩ := writeByteAt_memory h2 w1 b1
  exact writeByteAt_memory h3 w2 b2

/-! ## Counters -/

/-- A value kept to `bits` bits. -/
theorem keepLow_toNat {bits : Nat} (v : Pair) (h : bits ≤ 32) : (keepLow bits v).toNat = v.toNat % 2 ^ bits := by
  unfold keepLow
  rw [BitVec.toNat_ofNat]
  have h1 : v.toNat % 2 ^ bits < 2 ^ bits := Nat.mod_lt _ (Nat.two_pow_pos bits)
  have h2 : 2 ^ bits ≤ 2 ^ 32 := Nat.pow_le_pow_right (by omega) h
  exact Nat.mod_eq_of_lt (by omega)

/-- The widths of the counters, under the parameters' ranges (R6). -/
theorem activeBits_le {s : State} (h : s.cfg.wf = true) : activeBits s ≤ 25 := by
  simp only [Params.wf, Bool.and_eq_true, decide_eq_true_eq] at h
  unfold activeBits; split_ifs <;> omega

end Sys2Proof.Machine
end

