-- ==== Sys2Proof/Laws/Access.lean ====
section
/-! SUPPORT. For each shared memory operation, once, every way an instruction built on it may come out, in the words of Safety:
`ReadsByteThen`, `ReadsWordThen` for the reads, `StoresEach` for the writes. -/

namespace Sys2Proof.Machine

/-! ## Sequences -/

/-- Sequencing is associative. -/
theorem Res.andThen_assoc {α β γ : Type} (r : Res α) (c : α → State → Res β) (d : β → State → Res γ) :
    Res.andThen (Res.andThen r c) d = Res.andThen r fun v t => Res.andThen (c v t) d := by
  cases r <;> rfl

/-- An operation followed by nothing. -/
theorem Res.andThen_pure {α : Type} (r : Res α) : (Res.andThen r fun v t => .ok (v, t)) = r := by
  match r with
  | .error f => rfl
  | .ok (v, t) => rfl

/-! ## Reads -/

/-- An instruction that starts with the read of the byte at a data address. -/
theorem readsByteAtThen_readByteAt {β : Type} {r : Bool} {addr : Triple} {s : State} {c : Byte → State → Res β}
    {k : β → State → State} {out : Out} {K : Byte → State → Prop}
    (h : out = Res.finish (Res.andThen (readByteAt r addr s) c) k)
    (next : ∀ v t, out = Res.finish (c v t) k → K v t) : ReadsByteAtThen r addr s out K := by
  refine ⟨fun p => next _ _ ?_, fun p => next _ _ ?_, fun p m => ?_⟩ <;> rw [h]
  · rw [readByteAt_plain p, Res.andThen_ok]
  · rw [readByteAt_protected p, Res.andThen_ok]
  · rw [readByteAt_absent p m, Res.andThen_error, Res.finish_error]

/-- An instruction that starts with a byte read. -/
theorem readsByteThen_readByte {β : Type} {o : Operand} {s : State} {c : Byte → State → Res β} {k : β → State → State}
    {out : Out} {K : Byte → State → Prop} (h : out = Res.finish (Res.andThen (readByte o s) c) k)
    (next : ∀ v t, out = Res.finish (c v t) k → K v t) : ReadsByteThen o s out K :=
  readsByteAtThen_readByteAt h next

/-- An instruction that is the read of a byte and then goes on. -/
theorem readsByte_readByte {o : Operand} {s : State} {k : Byte → State → State} {out : Out}
    (h : out = Res.finish (readByte o s) k) : ReadsByte o s out k :=
  readsByteThen_readByte (c := fun v t => .ok (v, t)) (by rw [Res.andThen_pure]; exact h) fun _ _ h1 => h1

/-- Of a word the user mode refuses both bytes. -/
theorem readWordAt_protected {r : Bool} {addr : Triple} {s : State} (e : oddAddress addr = false)
    (h : isProtected s r (addr + 1) = true) :
    readWordAt r addr s = .ok (Config.drawByte (s.draws + 1) ++ Config.drawByte s.draws, afterRefusal 2 s) := by
  have h1 : isProtected (afterRefusal 1 s) r (addr + 1) = true := h
  simp only [readWordAt, e, Bool.false_eq_true, if_false, readByteAt_protected (protected_of_succ e h), Res.andThen_ok,
    readByteAt_protected h1]
  rfl

/-- Of a word the user mode refuses the low byte alone. -/
theorem readWordAt_lowProtected {r : Bool} {addr : Triple} {s : State} (e : oddAddress addr = false)
    (h : isProtected s r addr = true) (p : plainAt r (addr + 1) s = true) :
    readWordAt r addr s = .ok (byteAt (addr + 1) s ++ Config.drawByte s.draws, afterRefusal 1 s) := by
  have p1 : plainAt r (addr + 1) (afterRefusal 1 s) = true := p
  simp only [readWordAt, e, Bool.false_eq_true, if_false, readByteAt_protected h, Res.andThen_ok, readByteAt_plain p1]
  rfl

/-- A word whose upper byte does not exist. -/
theorem readWordAt_absent {r : Bool} {addr : Triple} {s : State} (e : oddAddress addr = false)
    (h : isProtected s r (addr + 1) = false) (m : s.cfg.memBytes ≤ physical s (addr + 1)) :
    readWordAt r addr s = .error .noMemory := by
  simp only [readWordAt, e, Bool.false_eq_true, if_false]
  cases hp : isProtected s r addr with
  | true =>
    have h1 : isProtected (afterRefusal 1 s) r (addr + 1) = false := h
    rw [readByteAt_protected hp, Res.andThen_ok, readByteAt_absent h1 m, Res.andThen_error]
  | false =>
    by_cases hm : physical s addr < s.cfg.memBytes
    · rw [readByteAt_plain (by simp [plainAt, hp, hm]), Res.andThen_ok, readByteAt_absent h m, Res.andThen_error]
    · rw [readByteAt_absent hp (Nat.le_of_not_lt hm), Res.andThen_error]

/-- An instruction that starts with a word read. -/
theorem readsWordThen_readWord {β : Type} {o : Operand} {s : State} {c : Word → State → Res β} {k : β → State → State}
    {out : Out} {K : Word → State → Prop} (h : out = Res.finish (Res.andThen (readWord o s) c) k)
    (next : ∀ v t, out = Res.finish (c v t) k → K v t) : ReadsWordThen o s out K := by
  refine ⟨fun e => ?_, fun p => next _ _ ?_, fun e p => next _ _ ?_, fun e p q => next _ _ ?_, fun e p m => ?_⟩ <;>
    rw [h, readWord]
  · rw [readWordAt_odd e, Res.andThen_error, Res.finish_error]
  · simp only [plainWord, Bool.and_eq_true, Bool.not_eq_true'] at p
    rw [readWordAt_plain p.1.1 p.1.2 p.2, Res.andThen_ok]
  · rw [readWordAt_protected e p, Res.andThen_ok]
  · rw [readWordAt_lowProtected e p q, Res.andThen_ok]
  · rw [readWordAt_absent e p m, Res.andThen_error, Res.finish_error]

/-! ## Writes -/

/-- An instruction that writes a byte and then what `rest` says. -/
theorem storesEach_cons {β : Type} {r : Bool} {addr : Triple} {v : Byte} {s : State} {c : Unit → State → Res β}
    {k : β → State → State} {out : Out} {g : State → State} {rest : List (Triple × Byte)}
    (h : out = Res.finish (Res.andThen (writeByteAt r addr v s) c) k)
    (next : ∀ t, out = Res.finish (c () t) k → StoresEach r out g rest t) :
    StoresEach r out g ((addr, v) :: rest) s := by
  refine ⟨fun p => next _ ?_, fun p => next _ ?_, fun p d => next _ ?_, fun p d m => ?_, fun p d a => ?_⟩ <;> rw [h]
  · rw [writeByteAt_storable p, Res.andThen_ok]
  · rw [writeByteAt_protected p, Res.andThen_ok]
  · rw [writeByteAt_dropped p d, Res.andThen_ok]
  · rw [writeByteAt_absent p d m, Res.andThen_error, Res.finish_error]
  · rw [writeByteAt_adjacent p d a, Res.andThen_error, Res.finish_error]

/-- An instruction that ends with a byte write and then the value `x`. -/
theorem storesEach_writeByteAt {β : Type} {r : Bool} {addr : Triple} {v : Byte} {s : State} {x : β} {k : β → State → State}
    {out : Out} (h : out = Res.finish (Res.andThen (writeByteAt r addr v s) fun _ t => .ok (x, t)) k) :
    StoresEach r out (k x) [(addr, v)] s :=
  storesEach_cons h fun _ h1 => h1

/-- An instruction that ends with a word write and then the value `x`. -/
theorem storesEach_writeWordAt {β : Type} {r : Bool} {addr : Triple} {v : Word} {s : State} {x : β} {k : β → State → State}
    {out : Out} (e : oddAddress addr = false)
    (h : out = Res.finish (Res.andThen (writeWordAt r addr v s) fun _ t => .ok (x, t)) k) :
    StoresEach r out (k x) (wordCells addr v) s := by
  have hv : v.extractLsb' 0 8 = v.setWidth 8 := by ext i hi; simp
  simp only [writeWordAt, e, Bool.false_eq_true, if_false, Res.andThen_assoc] at h
  rw [wordCells, hv]
  exact storesEach_cons h fun _ h1 => storesEach_writeByteAt h1

/-- An instruction that ends with a triple write and then the value `x`. -/
theorem storesEach_writeTripleAt {β : Type} {r : Bool} {addr : Triple} {v : Triple} {s : State} {x : β}
    {k : β → State → State} {out : Out} (e : notFour addr = false)
    (h : out = Res.finish (Res.andThen (writeTripleAt r addr v s) fun _ t => .ok (x, t)) k) :
    StoresEach r out (k x) (tripleCells addr v) s := by
  have hv : v.extractLsb' 0 8 = v.setWidth 8 := by ext i hi; simp
  simp only [writeTripleAt, e, Bool.false_eq_true, if_false, Res.andThen_assoc] at h
  rw [tripleCells, hv]
  exact storesEach_cons h fun _ h1 => storesEach_cons h1 fun _ h2 => storesEach_writeByteAt h2

/-! ## Reading back -/

/-- Different data addresses are different bytes. -/
theorem physical_inj {s : State} {a b : Triple} (h : physical s a = physical s b) : a = b := by
  apply BitVec.eq_of_toNat_eq
  unfold physical at h
  split_ifs at h
  · exact h
  · exact Nat.add_left_cancel h

/-- A byte stored is read back. -/
theorem byteAt_putByte_same (addr : Triple) (v : Byte) {s : State} (w : s.mem.wf = true) :
    byteAt addr (putByte addr v s) = v := Memory.read_write_same _ _ _ w

/-- A byte stored leaves every other byte. -/
theorem byteAt_putByte_other {addr other : Triple} (h : other ≠ addr) (v : Byte) (s : State) :
    byteAt other (putByte addr v s) = byteAt other s :=
  Memory.read_write_other (fun e => h (physical_inj (s := s) e)) v s.mem

/-- A byte stored leaves the memory in its canonical form. -/
theorem putByte_wf (addr : Triple) (v : Byte) {s : State} (w : s.mem.wf = true) : (putByte addr v s).mem.wf = true :=
  Memory.wf_write _ _ _ w

@[simp] theorem ea_putByte (o : Operand) (addr : Triple) (v : Byte) (s : State) : ea o (putByte addr v s) = ea o s := by
  cases o <;> rfl

@[simp] theorem plainAt_putByte (r : Bool) (addr other : Triple) (v : Byte) (s : State) :
    plainAt r other (putByte addr v s) = plainAt r other s := rfl

/-! ## What a store and a read-modify-write come to -/

/-- A byte stored at an operand. -/
theorem storesByte_writeByte {o : Operand} {s : State} {out : Out} {v : Byte}
    (h : out = Res.finish (writeByte o v s) fun _ t => t) : StoresByte o s out v := by
  refine storesEach_writeByteAt (x := ()) (k := fun _ t => t) ?_
  rw [Res.andThen_pure]; exact h

/-- A word stored at an operand. -/
theorem storesWord_writeWord {o : Operand} {s : State} {out : Out} {v : Word}
    (h : out = Res.finish (writeWord o v s) fun _ t => t) : StoresWord o s out v := by
  have each : oddAddress (ea o s) = false → StoresEach (restricted o) out id (wordCells (ea o s) v) s := fun e => by
    refine storesEach_writeWordAt (x := ()) (k := fun _ t => t) e ?_
    rw [Res.andThen_pure]; exact h
  refine ⟨fun e => ?_, fun p => ?_, fun e p => ?_, fun e p d => ?_, each⟩
  · rw [h, writeWord, writeWordAt_odd e]; rfl
  · simp only [storableWord, Bool.and_eq_true, Bool.not_eq_true'] at p
    rw [h, writeWord, writeWordAt_storable p.1.1 p.1.2 p.2]; rfl
  · exact ((each e).2.1 (protected_of_succ e p)).2.1 p
  · exact ((each e).2.2.1 p d).2.2.1 (unprotected_succ e p) d

/-- The bytes above a multiple of 4 do not wrap. -/
theorem notFour_succ {addr : Triple} (e : notFour addr = false) :
    (addr + 1).toNat = addr.toNat + 1 ∧ (addr + 2).toNat = addr.toNat + 2 := by
  have h : addr.toNat % 4 = 0 := by
    have := e
    simp [notFour, BitVec.getLsbD, Nat.testBit] at this
    omega
  have hl := addr.isLt
  rw [BitVec.toNat_add, BitVec.toNat_add, show (1 : Triple).toNat = 1 from rfl, show (2 : Triple).toNat = 2 from rfl]
  omega

/-- Setting bit 1 of a multiple of 4 (R238). -/
theorem notFour_or_two {addr : Triple} (e : notFour addr = false) : addr ||| 2 = addr + 2 := by
  have h : addr &&& 2 = 0 := by
    apply BitVec.eq_of_getLsbD_eq
    intro i _
    simp only [notFour, Bool.or_eq_false_iff] at e
    rw [show (2 : Triple) = BitVec.twoPow 24 1 from rfl, BitVec.getLsbD_and, BitVec.getLsbD_twoPow]
    by_cases h1 : 1 = i
    · subst h1; rw [e.2]; rfl
    · simp [h1]
  exact (BitVec.add_eq_or_of_and_eq_zero addr 2 h).symm

/-- Below a protected address every address is. -/
theorem isProtected_of_le {r : Bool} {a b : Triple} {s : State} (h : isProtected s r b = true) (le : a.toNat ≤ b.toNat) :
    isProtected s r a = true := by
  simp only [isProtected, Bool.and_eq_true, decide_eq_true_eq] at h ⊢
  exact ⟨h.1, by omega⟩

/-- Above an unprotected address none is protected. -/
theorem not_isProtected_of_le {r : Bool} {a b : Triple} {s : State} (h : isProtected s r a = false)
    (le : a.toNat ≤ b.toNat) : isProtected s r b = false := by
  rw [← Bool.not_eq_true] at h ⊢
  exact fun hb => h (isProtected_of_le hb le)

/-- A triple stored at an operand. -/
theorem storesTriple_writeTriple {o : Operand} {s : State} {out : Out} {v : Triple}
    (h : out = Res.finish (writeTriple o v s) fun _ t => t) : StoresTriple o s out v := by
  have each : notFour (ea o s) = false → StoresEach (restricted o) out id (tripleCells (ea o s) v) s := fun e => by
    refine storesEach_writeTripleAt (x := ()) (k := fun _ t => t) e ?_
    rw [Res.andThen_pure]; exact h
  refine ⟨fun e => ?_, fun p => ?_, fun e p => ?_, fun e p d => ?_, each⟩
  · rw [h, writeTriple, writeTripleAt, e]; rfl
  · simp only [storableTriple, Bool.and_eq_true, Bool.not_eq_true'] at p
    obtain ⟨⟨⟨e, p0⟩, p1⟩, p2⟩ := p
    rw [← storableAt_putByte (v := v.extractLsb' 0 8) p0] at p1
    rw [← storableAt_putByte (v := v.extractLsb' 0 8) p0, ← storableAt_putByte (v := v.extractLsb' 8 8) p1] at p2
    exact (((each e).1 p0).1 p1).1 p2
  · obtain ⟨e1, e2⟩ := notFour_succ e
    exact (((each e).2.1 (isProtected_of_le p (by omega))).2.1 (isProtected_of_le p (by omega))).2.1 p
  · obtain ⟨e1, e2⟩ := notFour_succ e
    exact (((each e).2.2.1 p d).2.2.1 (not_isProtected_of_le p (by omega)) d).2.2.1
      (not_isProtected_of_le p (by omega)) d

/-- The flags of a result. -/
theorem setFlags_eq {w : Nat} (r : Alu w) : (fun s => setFlags r.cf r.zf s) = withFlags r := by
  obtain ⟨v, c, z⟩ := r
  cases c <;> cases z <;> rfl

/-- A byte read, changed and written back. -/
theorem modifiesByte_rmwByte {o : Operand} {s : State} {out : Out} {f : Byte → Alu 8} (h : out = rmwByte o f s) :
    ModifiesByte o s out f := by
  have each : ReadsByteThen o s out fun v t => ea o t = ea o s →
      StoresEach (restricted o) out (withFlags (f v)) [(ea o s, (f v).val)] t := by
    refine readsByteThen_readByte h fun v t ht e => ?_
    rw [← e, ← setFlags_eq]
    exact storesEach_writeByteAt (k := fun (r : Alu 8) u => setFlags r.cf r.zf u) ht
  refine ⟨fun p => ?_, fun p => ?_, fun p d => ?_, fun p d a => ?_, each.2.2⟩
  · have p' := p
    simp only [storableByte, storableAt, Bool.and_eq_true] at p'
    exact (each.1 p'.1.1 rfl).1 p
  · exact (each.2.1 p rfl).2.1 p
  · have p' := p
    simp only [plainByte, plainAt, Bool.and_eq_true, Bool.not_eq_true'] at p'
    exact (each.1 p rfl).2.2.1 p'.1 d
  · exact (each.1 p rfl).2.2.2.2 p d a

/-- A word read, changed and written back. -/
theorem modifiesWord_rmwWord {o : Operand} {s : State} {out : Out} {f : Word → Alu 16} (h : out = rmwWord o f s) :
    ModifiesWord o s out f := by
  have each : ReadsWordThen o s out fun v t => ea o t = ea o s → oddAddress (ea o s) = false →
      StoresEach (restricted o) out (withFlags (f v)) (wordCells (ea o s) (f v).val) t := by
    refine readsWordThen_readWord h fun v t ht e odd => ?_
    rw [← e] at odd ⊢
    rw [← setFlags_eq]
    exact storesEach_writeWordAt (k := fun (r : Alu 16) u => setFlags r.cf r.zf u) odd ht
  have even : plainWord o s = true → oddAddress (ea o s) = false := by
    simp only [plainWord, Bool.and_eq_true, Bool.not_eq_true']; exact fun p => p.1.1
  have plain : storableWord o s = true → plainWord o s = true := by
    simp only [storableWord, storableAt, plainWord, Bool.and_eq_true]
    exact fun p => ⟨⟨p.1.1, p.1.2.1.1⟩, p.2.1.1⟩
  refine ⟨fun p => ?_, fun e p => ?_, fun p d => ?_, each.1, fun p => each.2.1 p rfl (even p),
    fun e p => each.2.2.1 e p rfl e, fun e p q => each.2.2.2.1 e p q rfl e, each.2.2.2.2⟩
  · have q := each.2.1 (plain p) rfl (even (plain p))
    simp only [storableWord, Bool.and_eq_true] at p
    refine (q.1 p.1.2).1 ?_
    rw [storableAt_putByte p.1.2]; exact p.2
  · exact ((each.2.2.1 e p rfl e).2.1 (protected_of_succ e p)).2.1 p
  · have q := p
    simp only [plainWord, plainAt, Bool.and_eq_true, Bool.not_eq_true'] at q
    exact ((each.2.1 p rfl (even p)).2.2.1 q.1.2.1 d).2.2.1 q.2.1 d

end Sys2Proof.Machine
end

