-- ==== Sys2Proof/Laws/Decode.lean ====
section
/-! SUPPORT. The fields of an instruction word from its two bytes, and when two words decode alike. -/

namespace Sys2Proof

/-! ## The fields of a word, from its upper byte `b1` and its lower byte `b0` (R65, R90) -/

theorem opmsbBit_bytes (b0 b1 : Byte) : opmsbBit (b1 ++ b0) = b1.getLsbD 7 := by
  simp only [opmsbBit, BitVec.getLsbD_append]; simp

theorem macroBit_bytes (b0 b1 : Byte) : macroBit (b1 ++ b0) = b1.getLsbD 6 := by
  simp only [macroBit, BitVec.getLsbD_append]; simp

theorem opField_bytes (b0 b1 : Byte) : opField (b1 ++ b0) = b1.extractLsb' 0 6 := by
  ext i hi
  simp only [opField, BitVec.getElem_extractLsb', BitVec.getLsbD_append]
  simp

theorem gField_bytes (b0 b1 : Byte) : gField (b1 ++ b0) = b0 := by
  ext i hi
  simp only [gField, BitVec.getElem_extractLsb', BitVec.getLsbD_append]
  simp [hi, BitVec.getLsbD_eq_getElem]

/-! ## Decoding -/

/-- Two first words with the same length and the same instruction, whatever the second word, decode alike. -/
theorem decode_congr {c c' : DecodeCtx} {b0 b1 b0' b1' : Byte} (rest : List Byte)
    (two : needsSecondWord c (b1 ++ b0) = needsSecondWord c' (b1' ++ b0'))
    (words : ∀ w2, decodeWords c (b1 ++ b0) w2 = decodeWords c' (b1' ++ b0') w2) :
    decode c (b0 :: b1 :: rest) = decode c' (b0' :: b1' :: rest) := by
  simp only [decode, two, words]

/-- But for OP 01, an opmsb of 1 decodes alike whether the word or the prefix supplies it (R91). -/
theorem decodeFields_opmsb (num word millicode : Bool) (op : BitVec 6) (g : Byte) (w2 : Word) (h : op ≠ 0x01) :
    decodeFields { opmsb := true, num := num, word := word, millicode := millicode } false op g w2 =
      decodeFields { opmsb := false, num := num, word := word, millicode := millicode } true op g w2 := by
  have h1 : op.toNat ≠ 1 := fun e => h (BitVec.eq_of_toNat_eq e)
  unfold decodeFields
  simp only [Bool.false_or, Bool.or_false, immRow, accRow]
  split <;> first | rfl | exact absurd ‹_› h1

end Sys2Proof
end

