-- ==== Sys2Proof/Laws/Step.lean ====
section
/-! SUPPORT. What each part of a step does, in the words of Safety: whether an interrupt is taken, the fetch, the checks on the
pending prefixes and on the end of a macro, and what an instruction retires. -/

namespace Sys2Proof.Machine

/-! ## The boundary and the fetch -/

theorem prefixPending_eq_false {s : State} : prefixPending s = false ↔ NonePending s := by
  unfold prefixPending NonePending
  cases s.numN <;> cases s.wordK <;> cases s.opmsbP <;> cases s.pmemP <;> simp

/-- Where no interrupt is due none is taken. -/
theorem takenCause_eq_none {s : State} (h : NoInterruptDue s) : takenCause s = none := by
  unfold takenCause
  rcases h with h | h | h | ⟨h0, ha, h1⟩
  · simp [h]
  · simp [h]
  · have hp : prefixPending s = true := by
      rw [← Bool.not_eq_false, prefixPending_eq_false]; exact h
    simp [hp]
  · split_ifs
    · rfl
    · simp [pendingCause, accessError, h0, ha, h1]

theorem decodeCtx_eq (s : State) : decodeCtx s = contextOf s := rfl

/-- Where the counter goes after a word of the instruction stream. -/
theorem afterWord_toNat (s : State) : (afterWord s (activeCounter s)).toNat = ((activeCounter s).toNat + 2) % 2 ^ activeBits s := by
  have hc : (activeCounter s).toNat < 2 ^ 25 := by
    unfold activeCounter
    split_ifs
    · have := s.ic.isLt; rw [BitVec.toNat_setWidth]; omega
    · have := s.mc.isLt; rw [BitVec.toNat_setWidth]; omega
    · have := s.pc.isLt; rw [BitVec.toNat_setWidth]; omega
  have h2 : (activeCounter s + 2 : Pair).toNat = (activeCounter s).toNat + 2 := by
    rw [BitVec.toNat_add, show (2 : Pair).toNat = 2 from rfl]; omega
  unfold afterWord keepLow
  rw [BitVec.toNat_ofNat, h2]
  exact Nat.mod_eq_of_lt (lt_of_le_of_lt (Nat.mod_le _ _) (by omega))

theorem needsSecondWord_iff (ctx : DecodeCtx) (w : Word) : needsSecondWord ctx w = true ↔ TwoWords ctx w := by
  simp only [needsSecondWord, ordinaryWord, opmsbEff, opmsbBit, macroBit, opField, TwoWords, Bool.and_eq_true, Bool.or_eq_true,
    Bool.not_eq_true', beq_iff_eq]
  exact ⟨fun h => ⟨h.2, h.1.2, h.1.1⟩, fun h => ⟨⟨h.2.2, h.2.1⟩, h.1⟩⟩

theorem twoWordsAtCounter_iff (s : State) :
    needsSecondWord (decodeCtx s) (wordAt s (activeCounter s).toNat) = true ↔ TwoWordsAtCounter s := needsSecondWord_iff _ _

/-- The bytes at the counter are what the fetch answers. -/
theorem fetchBytes_eq_ok {s : State} {bytes : List Byte} : fetchBytes s = .ok bytes ↔ BytesAtCounter s bytes := by
  unfold fetchBytes BytesAtCounter
  simp only [outsideProgram, bytesAt, afterWord_toNat, ← twoWordsAtCounter_iff, firstAt, secondAt]
  cases needsSecondWord (decodeCtx s) (wordAt s (activeCounter s).toNat) <;>
    by_cases hp : (activeCounter s).toNat + 1 < programEnd s <;>
    by_cases hq : ((activeCounter s).toNat + 2) % 2 ^ activeBits s + 1 < programEnd s <;> simp [hp, hq, eq_comm]

/-- A fetch outside the program area. -/
theorem fetchBytes_outside {s : State} (h : programEnd s ≤ firstAt s + 1) : fetchBytes s = .error .noMemory := by
  have ho : outsideProgram s (activeCounter s) = true := by simp only [firstAt] at h; simp [outsideProgram, h]
  simp [fetchBytes, ho]

/-- A fetch whose second word lies outside the program area. -/
theorem fetchBytes_secondOutside {s : State} (two : TwoWordsAtCounter s) (h : programEnd s ≤ secondAt s + 1) :
    fetchBytes s = .error .noMemory := by
  have ho : outsideProgram s (afterWord s (activeCounter s)) = true := by
    simp only [secondAt, firstAt] at h
    simp [outsideProgram, afterWord_toNat, h]
  simp [fetchBytes, (twoWordsAtCounter_iff s).mpr two, ho]

/-- Whether the word fetched ends a macro. -/
theorem endsMacro_iff {s : State} {bytes : List Byte} (h : BytesAtCounter s bytes) :
    endsMacro s = true ↔ EndsMacro s bytes := by
  have hb : bytes.getD 1 0 = s.mem.read ((activeCounter s).toNat + 1) := by
    rcases h.2 with ⟨_, rfl⟩ | ⟨_, _, rfl⟩ <;> rfl
  have hm : macroBit (wordAt s (activeCounter s).toNat) = (s.mem.read ((activeCounter s).toNat + 1)).getLsbD 6 := by
    simp only [macroBit, wordAt, BitVec.getLsbD_append]; simp
  simp only [endsMacro, EndsMacro, hb, hm, Bool.and_eq_true, Bool.not_eq_true', and_assoc]

/-! ## Sorting the instructions -/

theorem isReserved_iff (i : Instr) : isReserved i = true ↔ HasNoMeaning i := by
  cases i <;> simp [isReserved, HasNoMeaning]

theorem isHardMacro_iff (i : Instr) : isHardMacro i = true ↔ EntersMacro i := by
  cases i <;> simp [isHardMacro, EntersMacro]

theorem takesNum_iff (i : Instr) : takesNum i = true ↔ ConsumesNum i := by
  cases i <;> simp [takesNum, ConsumesNum]

theorem takesWord_iff (i : Instr) : takesWord i = true ↔ ConsumesWord i := by
  cases i <;> simp [takesWord, ConsumesWord]

theorem isRegisterCRow_iff (i : Instr) : isRegisterCRow i = true ↔ OnRegisterC i := by
  cases i <;> simp [isRegisterCRow, OnRegisterC]

theorem hasDataAccess_iff (i : Instr) : hasDataAccess i = true ↔ AccessesData i := by
  cases i <;> simp [hasDataAccess, AccessesData]

theorem isPrefixInstr_iff (i : Instr) : isPrefixInstr i = true ↔ IsPrefix i := by
  cases i <;> simp [isPrefixInstr, IsPrefix]

theorem neverEndsMacro_iff (i : Instr) : neverEndsMacro i = true ↔ NeverEndsMacro i := by
  cases i <;> simp [neverEndsMacro, NeverEndsMacro]

theorem branchTaken_iff (i : Instr) (s : State) : branchTaken i s = true ↔ Branches i s := by
  cases i <;> simp [branchTaken, Branches]

/-- A branch that falls through is not taken. -/
theorem not_branches_of_fallsThrough {i : Instr} {s : State} (h : FallsThrough i s) : ¬Branches i s := by
  rw [← branchTaken_iff]
  obtain ⟨n, h⟩ := h
  rcases h with ⟨h, hi⟩ | ⟨h, hi⟩ | ⟨h, hi⟩ | ⟨h, hi⟩ | ⟨h, hi⟩ <;>
    simp only [List.mem_cons, List.not_mem_nil, or_false] at hi <;>
    rcases hi with rfl | rfl | rfl | rfl | rfl | rfl <;> simp [branchTaken, h]

/-! ## The checks -/

/-- The pending prefixes let an instruction run. -/
theorem prefixFault_eq_none {i : Instr} {s : State} (h : PrefixesAllow i s) : prefixFault i s = none := by
  unfold prefixFault
  rcases h with h | ⟨h, hp⟩ | ⟨hm, hn, hw, hd⟩
  · simp [(isReserved_iff i).mpr h]
  · have hp' : (!s.inInt && prefixPending s) = false := by
      rcases hp with hp | hp
      · simp [hp]
      · simp [prefixPending_eq_false.mpr hp]
    simp [(isHardMacro_iff i).mpr h, hp']
  · rw [← isHardMacro_iff, Bool.not_eq_true] at hm
    have h1 : (s.numN != .zero && !takesNum i) = false := by
      by_cases hz : s.numN = .zero
      · simp [hz]
      · simp [(takesNum_iff i).mpr (hn hz)]
    have h2 : (s.wordK != .none && !takesWord i) = false := by
      by_cases hz : s.wordK = .none
      · simp [hz]
      · simp [(takesWord_iff i).mpr (hw hz)]
    have h3 : (s.wordK != .none && isRegisterCRow i) = false := by
      by_cases hz : s.wordK = .none
      · simp [hz]
      · obtain ⟨o, ho⟩ := hw hz
        simp only [List.mem_cons, List.not_mem_nil, or_false] at ho
        rcases ho with rfl | rfl | rfl | rfl | rfl | rfl | rfl | rfl <;> simp [isRegisterCRow]
    have h4 : (s.pmemP && !hasDataAccess i) = false := by
      cases hz : s.pmemP with
      | false => rfl
      | true => simp [(hasDataAccess_iff i).mpr (hd hz)]
    simp [hm, h1, h2, h3, h4]

/-- A hard macro with a prefix pending. -/
theorem prefixFault_hardMacro {i : Instr} {s : State} (h : EntersMacro i) (hi : s.inInt = false) (hp : ¬NonePending s) :
    prefixFault i s = some .prefixMisuse := by
  obtain ⟨e, op, g, rfl⟩ := h
  have hp' : prefixPending s = true := by rw [← Bool.not_eq_false, prefixPending_eq_false]; exact hp
  simp [prefixFault, isReserved, isHardMacro, hi, hp']

section Stops

variable {i : Instr} {s : State} (hr : ¬HasNoMeaning i) (hm : ¬EntersMacro i)
include hr hm

theorem prefixFault_num (hn : s.numN ≠ .zero) (hc : ¬ConsumesNum i) : prefixFault i s = some .prefixMisuse := by
  rw [← isReserved_iff, Bool.not_eq_true] at hr
  rw [← isHardMacro_iff, Bool.not_eq_true] at hm
  rw [← takesNum_iff, Bool.not_eq_true] at hc
  simp [prefixFault, hr, hm, hn, hc]

theorem prefixFault_word_registerC (hn : s.numN = .zero) (hw : s.wordK ≠ .none) (hc : OnRegisterC i) :
    prefixFault i s = some .reservedG := by
  rw [← isReserved_iff, Bool.not_eq_true] at hr
  rw [← isHardMacro_iff, Bool.not_eq_true] at hm
  rw [← isRegisterCRow_iff] at hc
  simp [prefixFault, hr, hm, hn, hw, hc]

theorem prefixFault_word (hw : s.wordK ≠ .none) (hc : ¬ConsumesWord i) (hC : ¬OnRegisterC i) :
    prefixFault i s = some .prefixMisuse := by
  rw [← isReserved_iff, Bool.not_eq_true] at hr
  rw [← isHardMacro_iff, Bool.not_eq_true] at hm
  rw [← takesWord_iff, Bool.not_eq_true] at hc
  rw [← isRegisterCRow_iff, Bool.not_eq_true] at hC
  simp [prefixFault, hr, hm, hw, hc, hC]

theorem prefixFault_pmemacc (hp : s.pmemP = true) (hw : s.wordK = .none) (hc : ¬AccessesData i) :
    prefixFault i s = some .prefixMisuse := by
  rw [← hasDataAccess_iff, Bool.not_eq_true] at hc
  rw [← isReserved_iff, Bool.not_eq_true] at hr
  rw [← isHardMacro_iff, Bool.not_eq_true] at hm
  simp [prefixFault, hr, hm, hp, hw, hc]

end Stops

/-- The pending prefixes let an instruction run: nothing else does. -/
theorem prefixesAllow_of_prefixFault {i : Instr} {s : State} (h : prefixFault i s = none) : PrefixesAllow i s := by
  by_cases hr : HasNoMeaning i
  · exact .inl hr
  by_cases hm : EntersMacro i
  · refine .inr (.inl ⟨hm, ?_⟩)
    by_contra hc
    rw [not_or, Bool.not_eq_true] at hc
    rw [prefixFault_hardMacro hm hc.1 hc.2] at h
    cases h
  refine .inr (.inr ⟨hm, fun hn => ?_, fun hw => ?_, fun hp => ?_⟩)
  · by_contra hc
    rw [prefixFault_num hr hm hn hc] at h
    cases h
  · by_contra hc
    by_cases hC : OnRegisterC i
    · by_cases hn : s.numN = .zero
      · rw [prefixFault_word_registerC hr hm hn hw hC] at h
        cases h
      · rw [prefixFault_num hr hm hn] at h
        · cases h
        · rw [← takesNum_iff]
          simp only [OnRegisterC, List.mem_cons, List.not_mem_nil, or_false] at hC
          rcases hC with rfl | rfl | rfl | rfl | rfl | rfl | rfl <;> decide
    · rw [prefixFault_word hr hm hw hc hC] at h
      cases h
  · by_contra hc
    by_cases hw : s.wordK = .none
    · rw [prefixFault_pmemacc hr hm hp hw hc] at h
      cases h
    · rw [← hasDataAccess_iff, Bool.not_eq_true] at hc
      rw [← isReserved_iff, Bool.not_eq_true] at hr
      rw [← isHardMacro_iff, Bool.not_eq_true] at hm
      simp only [prefixFault, hr, hm, hc, hp] at h
      split_ifs at h <;> simp_all

theorem endFault_isPrefix {i : Instr} (h : IsPrefix i) (s : State) : endFault i s = some .prefixMisuse := by
  simp [endFault, (isPrefixInstr_iff i).mpr h]

/-- Each answer of the check at the end of a macro says which of the three sorts the instruction is. -/
theorem endFault_cases (i : Instr) (s : State) :
    (endFault i s = some .prefixMisuse ∧ IsPrefix i) ∨
    (endFault i s = some .macroEndInstr ∧ (NeverEndsMacro i ∨ Branches i s)) ∨
    (endFault i s = none ∧ MayEndMacro i s) := by
  rw [MayEndMacro, ← isPrefixInstr_iff, ← neverEndsMacro_iff, ← branchTaken_iff]
  unfold endFault
  cases isPrefixInstr i <;> cases neverEndsMacro i <;> cases branchTaken i s <;> simp

theorem endFault_never {i : Instr} {s : State} (h : NeverEndsMacro i ∨ Branches i s) :
    endFault i s = some .macroEndInstr := by
  have hp : isPrefixInstr i = false := by
    rcases h with h | h
    · rw [← neverEndsMacro_iff] at h; cases i <;> simp_all [neverEndsMacro, isPrefixInstr]
    · rw [← branchTaken_iff] at h; cases i <;> simp_all [branchTaken, isPrefixInstr]
  have h' : (neverEndsMacro i || branchTaken i s) = true := by
    rcases h with h | h
    · simp [(neverEndsMacro_iff i).mpr h]
    · simp [(branchTaken_iff i s).mpr h]
  simp [endFault, hp, h']

theorem endFault_eq_none {i : Instr} {s : State} (h : MayEndMacro i s) : endFault i s = none := by
  obtain ⟨h1, h2, h3⟩ := h
  rw [← isPrefixInstr_iff, Bool.not_eq_true] at h1
  rw [← neverEndsMacro_iff, Bool.not_eq_true] at h2
  rw [← branchTaken_iff, Bool.not_eq_true] at h3
  simp [endFault, h1, h2, h3]

/-! ## What an instruction retires -/

theorem retires_retire (i : Instr) (ends : Bool) (t : State) : Retires i (ends = true) t (retire i ends t) := by
  refine ⟨rfl, ?_, ?_, ?_, ?_, ?_, ?_, ?_, ?_⟩
  · rintro ⟨n, rfl⟩; rfl
  · intro h; cases i <;> simp_all [retire, clearPrefixes, keepsNum]
  · rintro ⟨o, rfl | rfl⟩ <;> rfl
  · intro h; cases i <;> simp_all [retire, clearPrefixes, keepsWord]
  · rintro rfl; simp [retire, clearPrefixes, keepsOpmsb]
  · intro h; cases i <;> simp_all [retire, clearPrefixes, keepsOpmsb]
  · intro h; simp [retire, h]
  · intro h; simp [retire, h, clearPrefixes]

/-! ## The step -/

/-- The counter has no part in what the pending prefixes allow. -/
theorem prefixFault_advance (i : Instr) (n : Nat) (s : State) : prefixFault i (advance n s) = prefixFault i s := by
  simp [prefixFault, prefixPending]

/-- The counter has no part in what may end a macro. -/
theorem endFault_advance (i : Instr) (n : Nat) (s : State) : endFault i (advance n s) = endFault i s := by
  cases i <;> simp [endFault, branchTaken, isPrefixInstr, neverEndsMacro]

/-- What runs when the bytes at the counter decode. -/
theorem runNext_eq {s : State} {bytes rest : List Byte} {i : Instr} (h : BytesAtCounter s bytes)
    (d : decode (contextOf s) bytes = .ok (i, rest)) : runNext s = runInstr i (endsMacro s) (advance bytes.length s) := by
  simp [runNext, fetchBytes_eq_ok.mpr h, decodeCtx_eq, d]

/-- An instruction whose checks pass is run, and retires. -/
theorem stepIs_runInstr {i : Instr} {ends : Bool} {s v : State} (h : step s = runInstr i ends v)
    (hp : prefixFault i v = none) (he : ends = true → endFault i v = none) : StepIs i (ends = true) s v := by
  have he' : (if ends then endFault i v else none) = none := by
    split_ifs with c
    · exact he c
    · rfl
  rw [runInstr, hp, he'] at h
  refine ⟨fun t ht => ⟨_, ?_, retires_retire i ends t⟩, fun f hf => ?_, fun r hr => ?_⟩
  · simpa [ht] using h
  · simpa [hf] using h
  · simpa [hr] using h

end Sys2Proof.Machine
end

