-- ==== Sys2Proof/Tests/Slice0.lean ====
section
/-! SUPPORT. Tests: what WellFormed refuses, one decoded word of every constructor, single steps from the rows of
spec/95_test_vectors.md, and for every obligation with hypotheses a state and operands that meet them. -/

namespace Sys2Proof.Tests

open Sys2Proof Sys2Proof.Machine

/-! ## Helpers -/

/-- The parameters of the spec's HALF test configuration (95_test_vectors.md section 1), the open ones at one value. -/
def small : Params :=
  { Config.sdog with
    memBytes := 0x10000, dataBase := 0x8000, jrBSigned := true, loopUpdateOnExit := false
    byteswap := { bitA := 0, bitB := 1, bitC := 2, bitX := 3, xBytes := .lowMid } }

/-- The test configuration's start: PC at 0100h, everything else as after reset. -/
def base : State := { State.reset with cfg := small, pc := 0x100 }

/-- What a step from the state with one instruction placed leaves, seen through `f`; `none` when it does not go on. -/
def runs {α : Type} (s : State) (nbits w : Nat) (f : State → α) : Option α :=
  match step (s.withFetchWord nbits w) with
  | .next t => some (f t)
  | .fault _ => none
  | .refused _ => none

/-- The fault of a step from the state with one instruction placed. -/
def faultOf (s : State) (nbits w : Nat) : Option Fault :=
  match step (s.withFetchWord nbits w) with
  | .next _ => none
  | .fault f => some f
  | .refused _ => none

/-- The instruction the decoder reads from a word in a context. -/
def reads (ctx : DecodeCtx) (w : Nat) (i : Instr) : Bool :=
  match decode ctx (tableBytes 16 w) with
  | .ok (j, _) => j == i
  | .error _ => false

/-- The instruction goes on from this state. -/
def goesOn (i : Instr) (s : State) : Bool :=
  match exec i s with
  | .next _ => true
  | .fault _ => false
  | .refused _ => false

theorem goesOn_next {i : Instr} {s : State} (h : goesOn i s = true) : ∃ t, exec i s = .next t := by
  unfold goesOn at h
  split at h
  · exact ⟨_, ‹_›⟩
  · cases h
  · cases h

/-! ## What WellFormed refuses: an ill-formed term for each check -/

theorem test_wellFormed_refuses :
    Instr.wf (.ldX (.dir 125)) = false ∧ Instr.wf (.wLdX (.dir 125)) = false ∧
    (∀ i ∈ [Instr.andA .ab, .xorA .ab, .orA .ab, .addA .ab, .addcA .ab, .subA .ab, .subcA .ab], i.wf = false) ∧
    (∀ i ∈ [Instr.wAndA .ab, .wXorA .ab, .wOrA .ab, .wAddA .ab, .wAddcA .ab, .wSubA .ab, .wSubcA .ab], i.wf = false) ∧
    (∀ i ∈ [Instr.jrN 0x80, .brN 0x80, .jrc0N 0x80, .brc0N 0x80, .jrc1N 0x80, .brc1N 0x80, .jrz0N 0x80, .brz0N 0x80,
      .jrz1N 0x80, .brz1N 0x80], i.wf = false) ∧
    (∀ i ∈ [Instr.loopinc 0x80, .loopincW 0x80, .loopdec 0x80, .loopdecW 0x80], i.wf = false) ∧
    (∀ i ∈ [Instr.stA (.dir 0), .stA .ab, .stWA (.dir 0), .stWA .ab, .stB .ab, .stB (.mb 0), .stWB .ab, .stWB (.mb 0),
      .zero .ab, .zero (.mb 0), .zeroW .ab, .zeroW (.mb 0), .stX .x, .stTX .x], i.wf = false) ∧
    (∀ i ∈ [Instr.ddecM (.dir 125), .ddecWM (.dir 124), .ddecWM (.dir 125), .mov .x, .movW .x, .movW (.dir 125),
      .decM (.dir 124), .decM (.dir 125), .decWM (.dir 124), .decWM (.dir 125), .decKeep 123], i.wf = false) ∧
    Instr.wf (.reservedG false 0x01 0x21) = false ∧ Instr.wf (.reservedG true 0x34 0x10) = false ∧
    Instr.wf (.reservedOpmsb 0x10 0) = false ∧ Instr.wf (.unusedOp false 0x04 0) = false := by decide

/-! ## Decoding: one word of every constructor, made from the fields of its row in spec/opcode_table.json. -/

theorem test_decode_register_operations_1 :
    decodeTableWord 16 0x0000 = some .nop ∧
    decodeTableWord 16 0x0100 = some .mulx ∧
    decodeTableWord 16 0x0121 = some .getpc ∧
    decodeTableWord 16 0x0122 = some .getmc ∧
    decodeTableWord 16 0x0124 = some .setpc ∧
    decodeTableWord 16 0x0125 = some .addABXC ∧
    decodeTableWord 16 0x0126 = some .nibble ∧
    decodeTableWord 16 0x0128 = some .setmc ∧
    decodeTableWord 16 0x0129 = some .addABC ∧
    decodeTableWord 16 0x012A = some .wshl ∧
    decodeTableWord 16 0x012B = some .clc ∧
    decodeTableWord 16 0x0131 = some (.usermode 1) ∧
    decodeTableWord 16 0x0143 = some (.offset 3) ∧
    decodeTableWord 16 0x0150 = some .cpuinforst ∧
    decodeTableWord 16 0x0151 = some .cpuinfoinc ∧
    decodeTableWord 16 0x0152 = some .cpuinfoget ∧
    decodeTableWord 16 0x016F = some (.clear 15) ∧
    decodeTableWord 16 0x0180 = some .mul ∧
    decodeTableWord 16 0x0181 = some .ldAB ∧
    decodeTableWord 16 0x0182 = some .ldBA := by decide

theorem test_decode_register_operations_2 :
    decodeTableWord 16 0x0183 = some .swapAB ∧
    decodeTableWord 16 0x0184 = some .ldCA ∧
    decodeTableWord 16 0x0185 = some .ldABCA ∧
    decodeTableWord 16 0x0186 = some .ldBACA ∧
    decodeTableWord 16 0x0187 = some .ldABBACA ∧
    decodeTableWord 16 0x0189 = some .ldAC ∧
    decodeTableWord 16 0x018A = some .ldBC ∧
    decodeTableWord 16 0x018B = some .ldACBC ∧
    decodeTableWord 16 0x018C = some .ldCB ∧
    decodeTableWord 16 0x018D = some .ldACCB ∧
    decodeTableWord 16 0x018E = some .swapBC ∧
    decodeTableWord 16 0x018F = some .ldACBCCB ∧
    decodeTableWord 16 0x0190 = some .incB ∧
    decodeTableWord 16 0x0191 = some .incX ∧
    decodeTableWord 16 0x0192 = some .incBX ∧
    decodeTableWord 16 0x0193 = some .incBXm ∧
    decodeTableWord 16 0x0194 = some .dincB ∧
    decodeTableWord 16 0x0195 = some .dincX ∧
    decodeTableWord 16 0x0196 = some .dincBX ∧
    decodeTableWord 16 0x0197 = some .dincBXm := by decide

theorem test_decode_register_operations_3 :
    decodeTableWord 16 0x0198 = some .decB ∧
    decodeTableWord 16 0x0199 = some .decX ∧
    decodeTableWord 16 0x019A = some .decBX ∧
    decodeTableWord 16 0x019B = some .decBXp ∧
    decodeTableWord 16 0x019C = some .ddecB ∧
    decodeTableWord 16 0x019D = some .ddecX ∧
    decodeTableWord 16 0x019E = some .ddecBX ∧
    decodeTableWord 16 0x019F = some .ddecBXp ∧
    decodeTableWord 16 0x01AF = some (.byteswap 15) ∧
    decodeTableWord 16 0x01B0 = some .ldXAB ∧
    decodeTableWord 16 0x01B1 = some .ldXAC ∧
    decodeTableWord 16 0x01DF = some (.int 15) ∧
    decodeTableWord 16 0x01E0 = some .disable ∧
    decodeTableWord 16 0x01E1 = some .enable ∧
    decodeTableWord 16 0x01E2 = some .getstat ∧
    decodeTableWord 16 0x01EF = some .opmsb ∧
    decodeTableWord 16 0x01F1 = some .inputa ∧
    decodeTableWord 16 0x01F2 = some .outputb ∧
    decodeTableWord 16 0x01F3 = some .inout := by decide

theorem test_decode_immediates :
    decodeTableWord 16 0x0483 = some (.num 0x83) ∧
    decodeTableWord 16 0x0590 = some (.andAn 0x90) ∧
    reads { num := true } 0x057E (.nAndAnn 0x7E) ∧
    decodeTableWord 16 0x0683 = some (.xorAn 0x83) ∧
    reads { num := true } 0x0690 (.nXorAnn 0x90) ∧
    decodeTableWord 16 0x077E = some (.orAn 0x7E) ∧
    reads { num := true } 0x0783 (.nOrAnn 0x83) ∧
    decodeTableWord 16 0x0890 = some (.ldAn 0x90) ∧
    reads { num := true } 0x087E (.nLdAnn 0x7E) ∧
    decodeTableWord 16 0x0983 = some (.ldBn 0x83) ∧
    reads { num := true } 0x0990 (.nLdBnn 0x90) ∧
    decodeTableWord 16 0x0A7E = some (.ldCn 0x7E) ∧
    reads { num := true } 0x0A83 (.nLdCnn 0x83) ∧
    decodeTableWord 16 0x0B90 = some (.ldXn 0x90) ∧
    reads { num := true } 0x0B7E (.nLdXnn 0x7E) ∧
    decodeTableWord 32 0x12348B83 = some (.ldT 0x123483) ∧
    decodeTableWord 16 0x0E90 = some (.addAn 0x90) ∧
    reads { num := true } 0x0E7E (.nAddAnn 0x7E) ∧
    decodeTableWord 16 0x0F83 = some (.addcAn 0x83) ∧
    reads { num := true } 0x0F90 (.nAddcAnn 0x90) := by decide

theorem test_decode_loads :
    decodeTableWord 16 0x107E = some (.ldA .x) ∧
    decodeTableWord 16 0x9083 = some (.ldWA (.mb 3)) ∧
    decodeTableWord 16 0x1190 = some (.ldB (.mb 16)) ∧
    decodeTableWord 16 0x917E = some (.ldWB .x) ∧
    decodeTableWord 16 0x1283 = some (.ldC (.mb 3)) ∧
    decodeTableWord 16 0x9290 = some (.ldWC (.mb 16)) ∧
    decodeTableWord 16 0x137E = some (.ldX .x) ∧
    reads { word := true } 0x1383 (.wLdX (.mb 3)) ∧
    decodeTableWord 16 0x9390 = some (.ldWX (.mb 16)) ∧
    decodeTableWord 16 0x147E = some (.word .x) ∧
    decodeTableWord 16 0x9483 = some (.wordx (.mb 3)) := by decide

theorem test_decode_accumulator_operations_1 :
    decodeTableWord 16 0x1590 = some (.andA (.mb 16)) ∧
    decodeTableWord 16 0x157F = some .andAC ∧
    reads { word := true } 0x1583 (.wAndA (.mb 3)) ∧
    decodeTableWord 16 0x1690 = some (.xorA (.mb 16)) ∧
    decodeTableWord 16 0x167F = some .xorAC ∧
    reads { word := true } 0x1683 (.wXorA (.mb 3)) ∧
    decodeTableWord 16 0x1790 = some (.orA (.mb 16)) ∧
    decodeTableWord 16 0x177F = some .orAC ∧
    reads { word := true } 0x1783 (.wOrA (.mb 3)) ∧
    decodeTableWord 16 0x1890 = some (.setflag (.mb 16)) ∧
    decodeTableWord 16 0x1910 = some (.reti 16) ∧
    decodeTableWord 16 0x1A83 = some (.addA (.mb 3)) ∧
    decodeTableWord 16 0x1A7F = some .addAC ∧
    reads { word := true } 0x1A7E (.wAddA .x) ∧
    decodeTableWord 16 0x1B83 = some (.addcA (.mb 3)) ∧
    decodeTableWord 16 0x1B7F = some .addcAC ∧
    reads { word := true } 0x1B7E (.wAddcA .x) ∧
    decodeTableWord 16 0x1C83 = some (.out (.mb 3)) ∧
    decodeTableWord 16 0x1E90 = some (.subA (.mb 16)) ∧
    decodeTableWord 16 0x1E7F = some .subAC := by decide

theorem test_decode_accumulator_operations_2 :
    reads { word := true } 0x1E83 (.wSubA (.mb 3)) ∧
    decodeTableWord 16 0x1F90 = some (.subcA (.mb 16)) ∧
    decodeTableWord 16 0x1F7F = some .subcAC ∧
    reads { word := true } 0x1F83 (.wSubcA (.mb 3)) := by decide

theorem test_decode_branches_1 :
    decodeTableWord 16 0x2090 = some (.jrN 0x90) ∧
    decodeTableWord 16 0x2080 = some .jrB ∧
    decodeTableWord 16 0xA083 = some (.brN 0x83) ∧
    decodeTableWord 16 0xA080 = some .brB ∧
    decodeTableWord 16 0x217E = some (.jrc0N 0x7E) ∧
    decodeTableWord 16 0x2180 = some .jrc0B ∧
    decodeTableWord 16 0xA190 = some (.brc0N 0x90) ∧
    decodeTableWord 16 0xA180 = some .brc0B ∧
    decodeTableWord 16 0x2283 = some (.jrc1N 0x83) ∧
    decodeTableWord 16 0x2280 = some .jrc1B ∧
    decodeTableWord 16 0xA27E = some (.brc1N 0x7E) ∧
    decodeTableWord 16 0xA280 = some .brc1B ∧
    decodeTableWord 16 0x2390 = some (.jrz0N 0x90) ∧
    decodeTableWord 16 0x2380 = some .jrz0B ∧
    decodeTableWord 16 0xA383 = some (.brz0N 0x83) ∧
    decodeTableWord 16 0xA380 = some .brz0B ∧
    decodeTableWord 16 0x247E = some (.jrz1N 0x7E) ∧
    decodeTableWord 16 0x2480 = some .jrz1B ∧
    decodeTableWord 16 0xA490 = some (.brz1N 0x90) ∧
    decodeTableWord 16 0xA480 = some .brz1B := by decide

theorem test_decode_branches_2 :
    decodeTableWord 16 0x2510 = some (.jmpM 16) ∧
    decodeTableWord 16 0x257A = some .jmpc0 ∧
    decodeTableWord 16 0x257B = some .jmpc1 ∧
    decodeTableWord 16 0x257C = some .jmpz0 ∧
    decodeTableWord 16 0x257D = some .jmpz1 ∧
    decodeTableWord 16 0x257F = some .jmpAB ∧
    decodeTableWord 16 0x2583 = some (.jmpMB 3) ∧
    decodeTableWord 16 0xA510 = some (.balM 16) ∧
    decodeTableWord 16 0xA57A = some .balc0 ∧
    decodeTableWord 16 0xA57B = some .balc1 ∧
    decodeTableWord 16 0xA57C = some .balz0 ∧
    decodeTableWord 16 0xA57D = some .balz1 ∧
    decodeTableWord 16 0xA57F = some .balAB ∧
    decodeTableWord 16 0xA590 = some (.balMB 16) ∧
    decodeTableWord 16 0x267E = some (.loopinc 0x7E) ∧
    decodeTableWord 16 0xA683 = some (.loopincW 0x83) ∧
    decodeTableWord 16 0x2790 = some (.loopdec 0x90) ∧
    decodeTableWord 16 0xA77E = some (.loopdecW 0x7E) := by decide

theorem test_decode_stores :
    decodeTableWord 16 0x2883 = some (.stA (.mb 3)) ∧
    decodeTableWord 16 0xA890 = some (.stWA (.mb 16)) ∧
    decodeTableWord 16 0x297E = some (.stB .x) ∧
    decodeTableWord 16 0xA910 = some (.stWB (.dir 16)) ∧
    decodeTableWord 16 0x2990 = some (.zero (.dir 16)) ∧
    decodeTableWord 16 0xA983 = some (.zeroW (.dir 3)) ∧
    decodeTableWord 16 0x2A83 = some (.stC (.mb 3)) ∧
    decodeTableWord 16 0xAA90 = some (.stWC (.mb 16)) ∧
    decodeTableWord 16 0x2B7E = some (.getflag .x) ∧
    decodeTableWord 16 0xAB83 = some (.getflagW (.mb 3)) ∧
    decodeTableWord 16 0x2C90 = some (.inp (.mb 16)) ∧
    decodeTableWord 16 0xAC7E = some (.inpW .x) ∧
    decodeTableWord 16 0x2D83 = some (.stX (.mb 3)) ∧
    decodeTableWord 16 0xAD90 = some (.stTX (.mb 16)) := by decide

theorem test_decode_memory_operations_1 :
    decodeTableWord 16 0x2E7E = some (.dincM .x) ∧
    decodeTableWord 16 0xAE83 = some (.dincWM (.mb 3)) ∧
    decodeTableWord 16 0x2F90 = some (.ddecM (.mb 16)) ∧
    decodeTableWord 16 0xAF7E = some (.ddecWM .x) ∧
    decodeTableWord 16 0x3083 = some (.shl (.mb 3)) ∧
    decodeTableWord 16 0xB090 = some (.shlW (.mb 16)) ∧
    decodeTableWord 16 0x317E = some (.shlc .x) ∧
    decodeTableWord 16 0xB183 = some (.shlcW (.mb 3)) ∧
    decodeTableWord 16 0x3290 = some (.shr (.mb 16)) ∧
    decodeTableWord 16 0xB27E = some (.shrW .x) ∧
    decodeTableWord 16 0x3383 = some (.shrc (.mb 3)) ∧
    decodeTableWord 16 0xB390 = some (.shrcW (.mb 16)) ∧
    decodeTableWord 16 0x3483 = some (.mov (.mb 3)) ∧
    decodeTableWord 16 0xB483 = some (.movW (.mb 3)) ∧
    decodeTableWord 16 0x3590 = some (.andM (.mb 16)) ∧
    decodeTableWord 16 0xB57E = some (.andWM .x) ∧
    decodeTableWord 16 0x3683 = some (.xorM (.mb 3)) ∧
    decodeTableWord 16 0xB690 = some (.xorWM (.mb 16)) ∧
    decodeTableWord 16 0x377E = some (.orM .x) ∧
    decodeTableWord 16 0xB783 = some (.orWM (.mb 3)) := by decide

theorem test_decode_memory_operations_2 :
    decodeTableWord 16 0x3890 = some (.incM (.mb 16)) ∧
    decodeTableWord 16 0xB87E = some (.incWM .x) ∧
    decodeTableWord 16 0x3983 = some (.inccM (.mb 3)) ∧
    decodeTableWord 16 0xB990 = some (.inccWM (.mb 16)) ∧
    decodeTableWord 16 0x3A7E = some (.addM .x) ∧
    decodeTableWord 16 0xBA83 = some (.addWM (.mb 3)) ∧
    decodeTableWord 16 0x3B90 = some (.addcM (.mb 16)) ∧
    decodeTableWord 16 0xBB7E = some (.addcWM .x) ∧
    decodeTableWord 16 0x3C83 = some (.decM (.mb 3)) ∧
    decodeTableWord 16 0x3C7D = some (.decKeep 125) ∧
    decodeTableWord 16 0xBC7E = some (.decWM .x) ∧
    decodeTableWord 16 0xBC7C = some .decWKeep ∧
    decodeTableWord 16 0x3D90 = some (.deccM (.mb 16)) ∧
    decodeTableWord 16 0xBD7E = some (.deccWM .x) ∧
    decodeTableWord 16 0x3E83 = some (.subM (.mb 3)) ∧
    decodeTableWord 16 0xBE90 = some (.subWM (.mb 16)) ∧
    decodeTableWord 16 0x3F7E = some (.subcM .x) ∧
    decodeTableWord 16 0xBF83 = some (.subcWM (.mb 3)) := by decide

theorem test_decode_others :
    decodeTableWord 16 0x4A05 = some (.hardMacro false 0x0A 5) ∧
    decodeTableWord 16 0x0188 = some (.reservedG false 0x01 0x88) ∧
    decodeTableWord 16 0x8801 = some (.reservedOpmsb 0x08 0x01) ∧
    decodeTableWord 16 0x0200 = some (.unusedOp false 0x02 0x00) := by decide

/-! ## One step each: rows of spec/95_test_vectors.md section 2; the name gives the rule and the word. -/

theorem test_step_R121_0000 :
    runs { base with a := 0x0001 } 16 0x0000 (fun t => t.a) = some 0x0001 := by decide

theorem test_step_R121_0001_stops :
    faultOf base 16 0x0001 = some .reservedG := by decide

theorem test_step_R122_0100 :
    runs { base with a := 0x1234, c := 0x0010, mem := [(0x8000, 0x05)] } 16 0x0100 (fun t => (t.a, byteAt 0x0 t)) = some (0x2345, 0x01) := by decide

theorem test_step_R123_0121 :
    runs { base with a := 0xFFFF, b := 0xFFFF } 16 0x0121 (fun t => (t.a, t.b)) = some (0x0000, 0x0081) := by decide

theorem test_step_R124_0122 :
    runs { base with mc := 0x02A6 } 16 0x0122 (fun t => (t.a, t.b)) = some (0x0000, 0x0153) := by decide

theorem test_step_R125_0124 :
    runs { base with a := 0x0000, b := 0x0100 } 16 0x0124 (fun t => t.pc) = some 0x0200 := by decide

theorem test_step_R126_0125 :
    runs { base with a := 0x0000, b := 0x0010 } 16 0x0125 (fun t => t.b) = some 0x0091 := by decide

theorem test_step_R127_0126 :
    runs { base with c := 0x12A7 } 16 0x0126 (fun t => (t.a, t.b)) = some (0x0007, 0x000A) := by decide

theorem test_step_R128_0128 :
    runs { base with a := 0x0000, b := 0x0150 } 16 0x0128 (fun t => t.mc) = some 0x02A0 := by decide

theorem test_step_R129_0129 :
    runs { base with a := 0x0000, b := 0xFFFF, c := 0x0002 } 16 0x0129 (fun t => (t.a, t.b)) = some (0x0001, 0x0001) := by decide

theorem test_step_R130_012A :
    runs { base with a := 0x8000, b := 0x8001 } 16 0x012A (fun t => (t.a, t.b)) = some (0x0001, 0x0002) := by decide

theorem test_step_R132_0131 :
    runs base 16 0x0131 (fun t => t.uf) = some true := by decide

theorem test_step_R137_0161 :
    runs { base with ae := true } 16 0x0161 (fun t => t.ae) = some false := by decide

theorem test_step_R138_0180 :
    runs { base with a := 0x1234, c := 0x0100 } 16 0x0180 (fun t => (t.a, t.c)) = some (0x3400, 0x0012) := by decide

theorem test_step_R142_0183 :
    runs { base with a := 0x0001, b := 0x0002 } 16 0x0183 (fun t => (t.a, t.b)) = some (0x0002, 0x0001) := by decide

theorem test_step_R146_0187 :
    runs { base with a := 0x0001, b := 0x0002, c := 0x0003 } 16 0x0187 (fun t => (t.a, t.b, t.c)) = some (0x0002, 0x0001, 0x0001) := by decide

theorem test_step_R153_018F :
    runs { base with a := 0x0001, b := 0x0002, c := 0x0003 } 16 0x018F (fun t => (t.a, t.b, t.c)) = some (0x0003, 0x0003, 0x0002) := by decide

theorem test_step_R158_0193 :
    runs { base with b := 0xFFFF, x := 0x000000 } 16 0x0193 (fun t => (t.b, t.x)) = some (0x0000, 0xFFFFFF) := by decide

theorem test_step_R166_019B :
    runs { base with b := 0x0000, x := 0xFFFFFF } 16 0x019B (fun t => (t.b, t.x)) = some (0xFFFF, 0x000000) := by decide

theorem test_step_R170_019F :
    runs { base with b := 0x0002, x := 0x000010 } 16 0x019F (fun t => (t.b, t.x)) = some (0x0000, 0x000012) := by decide

theorem test_step_R173_01B1 :
    runs { base with a := 0x00FF, c := 0x0001 } 16 0x01B1 (fun t => t.x) = some 0xFF0001 := by decide

theorem test_step_R174_01D3 :
    runs base 16 0x01D3 (fun t => (t.ic, t.inInt)) = some (0x0026, true) := by decide

theorem test_step_R174_01D3_stops :
    faultOf { base with inInt := true, ic := 0x0100 } 16 0x01D3 = some .intInInterrupt := by decide

theorem test_step_R175_01E0 :
    runs { base with ef := true } 16 0x01E0 (fun t => t.ef) = some false := by decide

theorem test_step_R177_01E2 :
    runs { base with a := 0xFFFF, ae := true } 16 0x01E2 (fun t => t.a) = some 0x0001 := by decide

theorem test_step_R178_1010 :
    runs { base with opmsbP := true, mem := [(0x8010, 0x34), (0x8011, 0x12)] } 16 0x1010 (fun t => t.a) = some 0x1234 := by decide

theorem test_step_R178_0801_stops :
    faultOf { base with opmsbP := true } 16 0x0801 = some .reservedOpmsb := by decide

theorem test_step_R179_01F1 :
    runs { base with c := 0x0003, inputs := [0xFF] } 16 0x01F1 (fun t => (t.a, t.ioLog.head?)) = some (0x00FF, some (.input 0x3 2 0xFF)) := by decide

theorem test_step_R180_01F2 :
    runs { base with c := 0x0003, b := 0xBEEF } 16 0x01F2 (fun t => t.ioLog.head?) = some (some (.output 0x3 2 0xBEEF)) := by decide

theorem test_step_R181_01F3 :
    runs { base with c := 0x0002, b := 0x00AA, inputs := [0x55] } 16 0x01F3 (fun t => (t.a, t.ioLog)) = some (0x0055, [.input 0x2 2 0x55, .output 0x2 2 0xAA]) := by decide

theorem test_step_R200_0412 :
    runs base 16 0x0412 (fun t => t.numV) = some 0x0012 := by decide

theorem test_step_R200_0456_stops :
    faultOf { base with numN := .two, numV := 0x1234 } 16 0x0456 = some .prefixMisuse := by decide

theorem test_step_R203_0500 :
    runs { base with a := 0x12F5, numN := .one, numV := 0xFF } 16 0x0500 (fun t => (t.a, t.zf)) = some (0x1200, false) := by decide

theorem test_step_R205_06FF :
    runs { base with a := 0x0F0F, numN := .one, numV := 0xFF } 16 0x06FF (fun t => (t.a, t.zf)) = some (0xF0F0, false) := by decide

theorem test_step_R208_08FF :
    runs base 16 0x08FF (fun t => t.a) = some 0x00FF := by decide

theorem test_step_R209_0834 :
    runs { base with numN := .one, numV := 0x12 } 16 0x0834 (fun t => t.a) = some 0x1234 := by decide

theorem test_step_R215_0B34 :
    runs { base with numN := .one, numV := 0x12 } 16 0x0B34 (fun t => t.x) = some 0x001234 := by decide

theorem test_step_R216_8B56 :
    runs base 32 0x12348B56 (fun t => t.x) = some 0x123456 := by decide

theorem test_step_R217_0E01 :
    runs { base with a := 0xFFFF } 16 0x0E01 (fun t => (t.a, t.cf, t.zf)) = some (0x0000, true, true) := by decide

theorem test_step_R219_0F00 :
    runs { base with a := 0xFFFF, cf := true } 16 0x0F00 (fun t => (t.a, t.zf, t.cf)) = some (0x0000, true, true) := by decide

theorem test_step_R220_0F00 :
    runs { base with a := 0x0001, cf := true, numN := .one, numV := 0x10 } 16 0x0F00 (fun t => (t.a, t.cf, t.zf)) = some (0x1002, false, false) := by decide

theorem test_step_R221_1010_stops :
    faultOf { base with numN := .one, numV := 0x01 } 16 0x1010 = some .prefixMisuse := by decide

theorem test_step_R222_0200_stops :
    faultOf base 16 0x0200 = some .reservedOp := by decide

theorem test_step_R231_1010 :
    runs { base with a := 0xFFFF, mem := [(0x8010, 0x80)] } 16 0x1010 (fun t => t.a) = some 0x0080 := by decide

theorem test_step_R231_107F_stops :
    faultOf { base with a := 0x0001, b := 0x0002 } 16 0x107F = some .noMemory := by decide

theorem test_step_R232_9010 :
    runs { base with mem := [(0x8010, 0x34), (0x8011, 0x12)] } 16 0x9010 (fun t => t.a) = some 0x1234 := by decide

theorem test_step_R232_9011_stops :
    faultOf { base with mem := [(0x8011, 0x34), (0x8012, 0x12)] } 16 0x9011 = some .misaligned := by decide

theorem test_step_R233_1110 :
    runs { base with off := 2, mem := [(0x8110, 0x77)] } 16 0x1110 (fun t => t.b) = some 0x0077 := by decide

theorem test_step_R236_927C :
    runs { base with mem := [(0x807D, 0x80)] } 16 0x927C (fun t => t.c) = some 0x8000 := by decide

theorem test_step_R237_1320 :
    runs { base with mem := [(0x8020, 0xFE)] } 16 0x1320 (fun t => t.x) = some 0x0000FE := by decide

theorem test_step_R238_1340 :
    runs { base with wordK := .word, wordG := 0x40, wordV := 0x3456, mem := [(0x8040, 0x56), (0x8041, 0x34), (0x8042, 0x12), (0x8043, 0x99)] } 16 0x1340 (fun t => t.x) = some 0x123456 := by decide

theorem test_step_R239_9310_stops :
    faultOf { base with mem := [(0x8010, 0x34), (0x8011, 0x12)] } 16 0x9310 = some .notImplemented := by decide

theorem test_step_R240_1410 :
    runs { base with mem := [(0x8010, 0x34), (0x8011, 0x12)] } 16 0x1410 (fun t => (t.wordV, t.wordG)) = some (0x1234, 0x10) := by decide

theorem test_step_R242_1A12_stops :
    faultOf { base with a := 0x0000, wordK := .word, wordG := 0x10, wordV := 0x1234, mem := [(0x8010, 0x34), (0x8011, 0x12), (0x8012, 0x01)] } 16 0x1A12 = some .wordOperandMismatch := by decide

theorem test_step_R243_1510 :
    runs { base with a := 0xFFFF, mem := [(0x8010, 0x0F)] } 16 0x1510 (fun t => (t.a, t.zf)) = some (0x000F, false) := by decide

theorem test_step_R244_157F :
    runs { base with a := 0xFF00, c := 0x0FF0 } 16 0x157F (fun t => (t.a, t.zf)) = some (0x0F00, false) := by decide

theorem test_step_R245_1510 :
    runs { base with a := 0xFFFF, wordK := .word, wordG := 0x10, wordV := 0xF00F, mem := [(0x8010, 0x0F), (0x8011, 0xF0)] } 16 0x1510 (fun t => (t.a, t.zf)) = some (0xF00F, false) := by decide

theorem test_step_R246_1610 :
    runs { base with a := 0x00FF, mem := [(0x8010, 0xFF)] } 16 0x1610 (fun t => (t.a, t.zf)) = some (0x0000, true) := by decide

theorem test_step_R252_187D :
    runs { base with mem := [(0x807D, 0x81)] } 16 0x187D (fun t => (t.cf, t.zf)) = some (true, true) := by decide

theorem test_step_R252_187D_stops :
    faultOf { base with mem := [(0x807D, 0x02)] } 16 0x187D = some .setflagMf := by decide

theorem test_step_R253_197C :
    runs { base with inInt := true, off := 3, pc := 0x0200, ic := 0x0100, mem := [(0x807C, 0x99)] } 16 0x197C (fun t => (t.cf, t.zf, t.off, t.inInt)) = some (true, true, 3, false) := by decide

theorem test_step_R253_197C_stops :
    faultOf base 16 0x197C = some .retiOutsideInterrupt := by decide

theorem test_step_R254_1A10 :
    runs { base with a := 0xFF01, mem := [(0x8010, 0xFF)] } 16 0x1A10 (fun t => (t.a, t.cf, t.zf)) = some (0x0000, true, true) := by decide

theorem test_step_R255_1A7F :
    runs { base with a := 0x8000, c := 0x8000 } 16 0x1A7F (fun t => (t.a, t.cf, t.zf)) = some (0x0000, true, true) := by decide

theorem test_step_R256_1A10 :
    runs { base with a := 0x0001, wordK := .word, wordG := 0x10, wordV := 0xFFFF, mem := [(0x8010, 0xFF), (0x8011, 0xFF)] } 16 0x1A10 (fun t => (t.a, t.cf, t.zf)) = some (0x0000, true, true) := by decide

theorem test_step_R257_1B10 :
    runs { base with a := 0xFFFF, cf := true } 16 0x1B10 (fun t => (t.a, t.zf, t.cf)) = some (0x0000, true, true) := by decide

theorem test_step_R261_1E10 :
    runs { base with a := 0x0000, mem := [(0x8010, 0x01)] } 16 0x1E10 (fun t => (t.a, t.cf, t.zf)) = some (0xFFFF, true, false) := by decide

theorem test_step_R262_1E7F :
    runs { base with a := 0x8000, c := 0x0001 } 16 0x1E7F (fun t => (t.a, t.cf, t.zf)) = some (0x7FFF, false, false) := by decide

theorem test_step_R264_1F10 :
    runs { base with a := 0x0000, cf := true } 16 0x1F10 (fun t => (t.a, t.zf)) = some (0xFFFF, false) := by decide

theorem test_step_R266_1F12 :
    runs { base with a := 0x0000, cf := true, wordK := .word, wordG := 0x12, wordV := 0xFFFF, mem := [(0x8012, 0xFF), (0x8013, 0xFF)] } 16 0x1F12 (fun t => t.zf) = some true := by decide

theorem test_step_R284_2003 :
    runs base 16 0x2003 (fun t => t.pc) = some 0x0108 := by decide

theorem test_step_R285_A003 :
    runs base 16 0xA003 (fun t => (t.a, t.b, t.pc)) = some (0x0000, 0x0081, 0x0108) := by decide

theorem test_step_R286_2102 :
    runs base 16 0x2102 (fun t => t.pc) = some 0x0106 := by decide

theorem test_step_R292_2401 :
    runs { base with zf := true } 16 0x2401 (fun t => t.pc) = some 0x0104 := by decide

theorem test_step_R293_A480 :
    runs { base with zf := true, a := 0x0000, b := 0x0002 } 16 0xA480 (fun t => (t.b, t.pc)) = some (0x0081, 0x0106) := by decide

theorem test_step_R294_2579 :
    runs base 16 0x2579 (fun t => t.pc) = some 0x00F2 := by decide

theorem test_step_R295_257A :
    runs { base with a := 0x0000, b := 0x0200 } 16 0x257A (fun t => t.pc) = some 0x0400 := by decide

theorem test_step_R299_257F :
    runs { base with a := 0x0000, b := 0x0004 } 16 0x257F (fun t => t.pc) = some 0x0008 := by decide

theorem test_step_R300_2581 :
    runs { base with b := 0x0004 } 16 0x2581 (fun t => t.pc) = some 0x20008 := by decide

theorem test_step_R301_A510 :
    runs base 16 0xA510 (fun t => (t.a, t.b, t.pc)) = some (0x0000, 0x0081, 0x0020) := by decide

theorem test_step_R307_A580 :
    runs { base with a := 0x1111, b := 0x0300 } 16 0xA580 (fun t => (t.a, t.b, t.pc)) = some (0x0000, 0x0081, 0x0600) := by decide

theorem test_step_R308_26FE :
    runs { base with c := 0x0002, x := 0x000010, pc := 0x102 } 16 0x26FE (fun t => (t.c, t.x, t.pc)) = some (0x0001, 0x000011, 0x0100) := by decide

theorem test_step_R309_27FE :
    runs { base with c := 0x0001, x := 0x000000, pc := 0x102 } 16 0x27FE (fun t => (t.c, t.x, t.pc)) = some (0x0000, 0xFFFFFF, 0x0100) := by decide

theorem test_step_R311_2810 :
    runs { base with a := 0x1234 } 16 0x2810 (fun t => byteAt 0x10 t) = some 0x34 := by decide

theorem test_step_R311_2800_stops :
    faultOf { base with a := 0x1234 } 16 0x2800 = some .reservedG := by decide

theorem test_step_R312_A810 :
    runs { base with a := 0x1234 } 16 0xA810 (fun t => (byteAt 0x10 t, byteAt 0x11 t)) = some (0x34, 0x12) := by decide

theorem test_step_R314_A97E :
    runs { base with b := 0xABCD, x := 0x000300 } 16 0xA97E (fun t => (byteAt 0x300 t, byteAt 0x301 t)) = some (0xCD, 0xAB) := by decide

theorem test_step_R315_2990 :
    runs { base with mem := [(0x8010, 0xFF)] } 16 0x2990 (fun t => byteAt 0x10 t) = some 0x00 := by decide

theorem test_step_R317_2A7F :
    runs { base with a := 0x0000, b := 0x0040, c := 0x1299 } 16 0x2A7F (fun t => byteAt 0x40 t) = some 0x99 := by decide

theorem test_step_R319_2B10 :
    runs { base with cf := true, zf := true, off := 2 } 16 0x2B10 (fun t => byteAt 0x110 t) = some 0x91 := by decide

theorem test_step_R320_AB10_stops :
    faultOf base 16 0xAB10 = some .getflagW := by decide

theorem test_step_R321_2C10 :
    runs { base with c := 0x0007, inputs := [0x34] } 16 0x2C10 (fun t => (byteAt 0x10 t, t.ioLog.head?)) = some (0x34, some (.input 0x7 1 0x34)) := by decide

theorem test_step_R322_AC10 :
    runs { base with c := 0x0007, inputs := [0x1234] } 16 0xAC10 (fun t => (byteAt 0x10 t, byteAt 0x11 t, t.ioLog.head?)) = some (0x34, 0x12, some (.input 0x7 2 0x1234)) := by decide

theorem test_step_R323_2D10 :
    runs { base with x := 0x123456 } 16 0x2D10 (fun t => byteAt 0x10 t) = some 0x56 := by decide

theorem test_step_R324_AD10 :
    runs { base with x := 0x123456, mem := [(0x8013, 0xEE)] } 16 0xAD10 (fun t => (byteAt 0x10 t, byteAt 0x11 t, byteAt 0x12 t)) = some (0x56, 0x34, 0x12) := by decide

theorem test_step_R324_AD12_stops :
    faultOf { base with x := 0x123456 } 16 0xAD12 = some .misaligned := by decide

theorem test_step_R310_287E :
    runs { base with uf := true, a := 0x0055, x := 0x0007FF, mem := [(0x87FF, 0x11)] } 16 0x287E (fun t => t.ae) = some true := by decide

theorem test_step_R310_287E_2 :
    runs { base with uf := true, a := 0x0055, x := 0x000800, mem := [(0x8800, 0x11)] } 16 0x287E (fun t => byteAt 0x800 t) = some 0x55 := by decide

theorem test_step_R310_A87E :
    runs { base with uf := true, a := 0x1234, x := 0x0007FE } 16 0xA87E (fun t => t.ae) = some true := by decide

theorem test_step_R76_287E_stops :
    faultOf { base with cfg := { small with dataBase := 0 }, a := 0x1234, x := 0x000102 } 16 0x287E = some .smcAdjacent := by decide

theorem test_step_R76_287E :
    runs { base with cfg := { small with dataBase := 0 }, a := 0x1234, x := 0x000104 } 16 0x287E (fun t => t.mem.read 0x104) = some 0x34 := by decide

theorem test_step_R342_AE10 :
    runs { base with mem := [(0x8010, 0xFF), (0x8011, 0xFF)] } 16 0xAE10 (fun t => (t.cf, t.zf, byteAt 0x10 t, byteAt 0x11 t)) = some (true, false, 0x01, 0x00) := by decide

theorem test_step_R345_3010 :
    runs { base with mem := [(0x8010, 0x80)] } 16 0x3010 (fun t => (t.cf, t.zf, byteAt 0x10 t)) = some (true, false, 0x00) := by decide

theorem test_step_R346_B010 :
    runs { base with mem := [(0x8010, 0x01), (0x8011, 0x80)] } 16 0xB010 (fun t => (t.cf, byteAt 0x10 t, byteAt 0x11 t)) = some (true, 0x02, 0x00) := by decide

theorem test_step_R347_3110 :
    runs { base with cf := true, mem := [(0x8010, 0x40)] } 16 0x3110 (fun t => (t.cf, byteAt 0x10 t)) = some (false, 0x81) := by decide

theorem test_step_R349_3210 :
    runs { base with mem := [(0x8010, 0x01)] } 16 0x3210 (fun t => (t.cf, byteAt 0x10 t)) = some (true, 0x00) := by decide

theorem test_step_R350_B210 :
    runs { base with mem := [(0x8011, 0x01)] } 16 0xB210 (fun t => (t.cf, byteAt 0x10 t, byteAt 0x11 t)) = some (false, 0x80, 0x00) := by decide

theorem test_step_R353_3410 :
    runs { base with x := 0x000040, mem := [(0x8010, 0x77)] } 16 0x3410 (fun t => byteAt 0x40 t) = some 0x77 := by decide

theorem test_step_R354_B410 :
    runs { base with x := 0x000040, mem := [(0x8010, 0x77), (0x8011, 0x88)] } 16 0xB410 (fun t => (byteAt 0x40 t, byteAt 0x41 t)) = some (0x77, 0x88) := by decide

theorem test_step_R355_3510 :
    runs { base with a := 0x120F, mem := [(0x8010, 0xF3)] } 16 0x3510 (fun t => (t.zf, byteAt 0x10 t)) = some (false, 0x03) := by decide

theorem test_step_R356_B510 :
    runs { base with a := 0x0FF0, mem := [(0x8010, 0xFF), (0x8011, 0xFF)] } 16 0xB510 (fun t => (t.zf, byteAt 0x10 t, byteAt 0x11 t)) = some (false, 0xF0, 0x0F) := by decide

theorem test_step_R361_3810 :
    runs { base with mem := [(0x8010, 0xFF)] } 16 0x3810 (fun t => (t.cf, t.zf, byteAt 0x10 t)) = some (true, true, 0x00) := by decide

theorem test_step_R362_B810 :
    runs { base with mem := [(0x8010, 0xFF)] } 16 0xB810 (fun t => (t.cf, t.zf, byteAt 0x10 t, byteAt 0x11 t)) = some (false, false, 0x00, 0x01) := by decide

theorem test_step_R363_3910 :
    runs { base with cf := true, mem := [(0x8010, 0xFF)] } 16 0x3910 (fun t => (t.zf, byteAt 0x10 t)) = some (true, 0x00) := by decide

theorem test_step_R365_3A10 :
    runs { base with a := 0x01FF, mem := [(0x8010, 0x01)] } 16 0x3A10 (fun t => (t.cf, t.zf, byteAt 0x10 t)) = some (true, true, 0x00) := by decide

theorem test_step_R367_3B7E :
    runs { base with a := 0x0001, x := 0x000040, cf := true, mem := [(0x8040, 0xFE)] } 16 0x3B7E (fun t => (t.zf, byteAt 0x40 t)) = some (true, 0x00) := by decide

theorem test_step_R369_3C10 :
    runs base 16 0x3C10 (fun t => (t.cf, t.zf, byteAt 0x10 t)) = some (true, false, 0xFF) := by decide

theorem test_step_R371_3C7C :
    runs { base with cf := true } 16 0x3C7C (fun t => (t.cf, t.zf, byteAt 0x7C t)) = some (true, false, 0xFF) := by decide

theorem test_step_R372_3D10 :
    runs { base with cf := true } 16 0x3D10 (fun t => (t.zf, byteAt 0x10 t)) = some (false, 0xFF) := by decide

theorem test_step_R373_BD10 :
    runs { base with cf := true, mem := [(0x8011, 0x01)] } 16 0xBD10 (fun t => (t.cf, t.zf, byteAt 0x10 t, byteAt 0x11 t)) = some (false, false, 0xFF, 0x00) := by decide

theorem test_step_R374_3E10 :
    runs { base with a := 0x0001 } 16 0x3E10 (fun t => (t.cf, t.zf, byteAt 0x10 t)) = some (true, false, 0xFF) := by decide

theorem test_step_R376_3F10 :
    runs { base with a := 0x0001, cf := true, mem := [(0x8010, 0x02)] } 16 0x3F10 (fun t => (t.cf, t.zf, byteAt 0x10 t)) = some (false, true, 0x00) := by decide

theorem test_step_R391_4A05 :
    runs { base with c := 0xFFFF, off := 0, pc := 0x800 } 16 0x4A05 (fun t => (t.c, t.mc, t.mf, byteAt 0x0 t)) = some (0x0005, 0x02A0, true, 0x05) := by decide

theorem test_step_R391_4A05_stops :
    faultOf { base with pc := 0x800, numN := .one, numV := 0x01 } 16 0x4A05 = some .prefixMisuse := by decide

theorem test_step_R393_6001_stops :
    faultOf { base with mf := true, pc := 0x0802, mc := 0x02A0 } 16 0x6001 = some .macroEndInstr := by decide

theorem test_step_R393_6401 :
    runs { base with mf := true, pc := 0x0802, mc := 0x02A0 } 16 0x6401 (fun t => (t.pc, t.mc, t.mf)) = some (0x0802, 0x02A2, false) := by decide

theorem test_step_R394_4A05_stops :
    faultOf { base with inInt := true, ic := 0x0060 } 16 0x4A05 = some .macroInInterrupt := by decide

theorem test_step_R406_0000 :
    runs { base with ef := true, int0 := true, int1 := true, ae := true } 16 0x0000 (fun t => (t.ic, t.inInt)) = some (0x0020, true) := by decide

theorem test_step_R406_0000_2 :
    runs { base with ef := true, int1 := true, ae := true } 16 0x0000 (fun t => (t.ic, t.inInt)) = some (0x0022, true) := by decide

theorem test_step_R406_0000_3 :
    runs { base with ef := true, int1 := true } 16 0x0000 (fun t => (t.ic, t.inInt)) = some (0x003E, true) := by decide

theorem test_step_reset_add :
    runs State.reset 16 0x0E05 (fun t => (t.a, t.pc)) = some (5, 2) := by decide

theorem test_step_reset_fetches_zero_as_nop :
    (match step State.reset with | .next t => some t.pc | _ => none) = some 2 := by decide

theorem test_step_fetch_outside_program_stops :
    (match step { base with pc := 0x8000 } with | .fault f => some f | _ => none) = some .noMemory := by decide

theorem test_step_word_c_row_stops :
    faultOf { base with wordK := .word, wordG := 0x7F } 16 0x157F = some .reservedG := by decide

theorem test_step_ldwx_where_built :
    runs { base with cfg := { small with hasLdWX := true }, mem := [(0x8010, 0x34), (0x8011, 0x12)] } 16 0x9310
      (fun t => t.x) = some 0x1234 := by decide

/-! ## The hypotheses of the obligations are met

Each theorem shows a state and operands that meet the hypotheses of the obligation it is named after, one for each clause. -/

theorem test_hyps_DecodeInvertsEncode :
    Instr.wf (.addAn 5) = true ∧ Instr.wf (.ldT 0xFFFFFF) = true ∧ Instr.wf (.decKeep 125) = true ∧
    Instr.wf (.nLdXnn 0) = true ∧ Instr.wf (.wLdX (.mb 127)) = true ∧ Instr.wf (.hardMacro true 63 255) = true ∧
    Instr.wf (.reservedG true 0x34 125) = true ∧ Instr.wf (.unusedOp true 0x1D 0) = true := by decide

theorem test_hyps_EncodeInvertsDecode :
    decode { opmsb := false, num := false, word := false, millicode := false } [0x56, 0x8B, 0x34, 0x12, 0xAA]
      = .ok (.ldT 0x123456, [0xAA]) ∧
    decode { opmsb := false, num := true, word := false, millicode := false } [0x05, 0x0E] = .ok (.nAddAnn 5, []) ∧
    decode { opmsb := false, num := false, word := true, millicode := false } [0x10, 0x1A] = .ok (.wAddA (.dir 16), []) :=
  ⟨rfl, rfl, rfl⟩

/-- For each clause of EncodeInvertsDecode on the upper byte of a word: an ordinary one, of another OP than 01 and of OP 01,
outside millicode and in it; a hard macro; bit 15 set; bit 14 set and clear. -/
theorem test_hyps_EncodeInvertsDecode_contexts :
    (∀ p ∈ [((0x10 : Byte), false), (0x50, true)],
      (p.1.getLsbD 6 = false ∨ p.2 = true) ∧ p.1.getLsbD 7 = false ∧ p.1.extractLsb' 0 6 ≠ 0x01) ∧
    (∀ p ∈ [((0x01 : Byte), false), (0x41, true)],
      (p.1.getLsbD 6 = false ∨ p.2 = true) ∧ p.1.getLsbD 7 = false ∧ p.1.extractLsb' 0 6 = 0x01) ∧
    (¬((0x50 : Byte).getLsbD 6 = false ∨ false = true)) ∧ (0x90 : Byte).getLsbD 7 = true ∧
    (0x50 : Byte).getLsbD 6 = true ∧ (0x10 : Byte).getLsbD 6 = false := by
  refine ⟨?_, ?_, ?_, ?_, ?_, ?_⟩ <;> simp

/-- R178's example `01EF 1004`, R216's `OPMSB ; LD X,n` of two words, a word ending a macro, and OPMSB before OPMSB, AND A,n
(reserved), and a hard macro. -/
theorem test_decode_contexts :
    reads { opmsb := true } 0x1004 (.ldWA (.dir 4)) = true ∧
    decode { opmsb := true } [0x56, 0x0B, 0x34, 0x12] = .ok (.ldT 0x123456, []) ∧
    reads { millicode := true } 0x5004 (.ldA (.dir 4)) = true ∧ reads { opmsb := true } 0x01EF .opmsb = true ∧
    reads { opmsb := true } 0x0505 (.reservedOpmsb 0x05 5) = true ∧
    reads { opmsb := true } 0x4A05 (.hardMacro false 0x0A 5) = true :=
  ⟨by decide, rfl, by decide, by decide, by decide, by decide⟩

/-- A state in millicode whose next word, with bit 14 set, is an instruction's. -/
def ending (w : Nat) : State := { base with mf := true, mc := 0x2A0 }.withFetchWord 16 w

/-- What StepRunsTheDecodedInstruction and MacroEndRefusesBranchesAndPrefixes suppose of a state and an instruction. -/
def Meets (s : State) (i : Instr) (bytes rest : List Byte) : Prop :=
  NoInterruptDue (takeRequests s) ∧ BytesAtCounter (takeRequests s) bytes ∧
  decode (contextOf (takeRequests s)) bytes = .ok (i, rest)

/-- The same, to be evaluated: with interrupts disabled. -/
def meets (s : State) (i : Instr) : Bool :=
  !(takeRequests s).ef &&
  match fetchBytes (takeRequests s) with
  | .ok bytes =>
    match decode (contextOf (takeRequests s)) bytes with
    | .ok (j, _) => j == i
    | .error _ => false
  | .error _ => false

theorem meets_sound {s : State} {i : Instr} (h : meets s i = true) : ∃ bytes rest, Meets s i bytes rest ∧
    (endsMacro (takeRequests s) = true → EndsMacro (takeRequests s) bytes) := by
  simp only [meets, Bool.and_eq_true, Bool.not_eq_true'] at h
  obtain ⟨he, h⟩ := h
  split at h
  · rename_i bytes hf
    split at h
    · rename_i j rest hd
      have hb := fetchBytes_eq_ok.mp hf
      rw [beq_iff_eq] at h
      exact ⟨bytes, rest, ⟨.inr (.inl he), hb, h ▸ hd⟩, (endsMacro_iff hb).mp⟩
    · cases h
  · cases h

/-- The instruction at the end of a macro, with the prefixes it may have, and what the check on it answers. -/
def endsWith (s : State) (i : Instr) (f : Option Fault) : Bool :=
  meets s i && endsMacro (takeRequests s) && prefixFault i (takeRequests s) == none && endFault i (takeRequests s) == f

theorem endsWith_sound {s : State} {i : Instr} {f : Option Fault} (h : endsWith s i f = true) :
    (∃ bytes rest, Meets s i bytes rest ∧ EndsMacro (takeRequests s) bytes) ∧ PrefixesAllow i (takeRequests s) ∧
    (f = some .prefixMisuse → IsPrefix i) ∧
    (f = some .macroEndInstr → NeverEndsMacro i ∨ Branches i (takeRequests s)) ∧
    (f = none → MayEndMacro i (takeRequests s)) := by
  simp only [endsWith, Bool.and_eq_true, beq_iff_eq] at h
  obtain ⟨⟨⟨hm, he⟩, hp⟩, hf⟩ := h
  obtain ⟨bytes, rest, hb, hn⟩ := meets_sound hm
  refine ⟨⟨bytes, rest, hb, hn he⟩, prefixesAllow_of_prefixFault hp, ?_⟩
  rcases endFault_cases i (takeRequests s) with c | c | c <;> rw [← hf, c.1] <;> simp [c.2]

/-- One word, with no prefix, with NUM before an immediate, WORD before a `W:` row, PMEMACC before a load, and two words. -/
theorem test_hyps_StepRunsTheDecodedInstruction :
    ∀ p ∈ [(base.withFetchWord 16 0x0E05, Instr.addAn 5), ({ base with numN := .one }.withFetchWord 16 0x0E05, .nAddAnn 5),
      ({ base with wordK := .word }.withFetchWord 16 0x1A10, .wAddA (.dir 16)),
      ({ base with pmemP := true }.withFetchWord 16 0x1010, .ldA (.dir 16)),
      ({ base with opmsbP := true }.withFetchWord 16 0x1010, .ldWA (.dir 16)),
      ({ base with inInt := true, ic := 0x20, numN := .one }.withFetchWord 16 0x4A05, .hardMacro false 0x0A 5),
      ({ base with numN := .one }.withFetchWord 16 0x0188, .reservedG false 0x01 0x88),
      (base.withFetchWord 32 0x12348B56, .ldT 0x123456)],
      (∃ bytes rest, Meets p.1 p.2 bytes rest) ∧ PrefixesAllow p.2 (takeRequests p.1) ∧ (takeRequests p.1).mf = false := by
  have h : ∀ p ∈ [(base.withFetchWord 16 0x0E05, Instr.addAn 5),
      ({ base with numN := .one }.withFetchWord 16 0x0E05, .nAddAnn 5),
      ({ base with wordK := .word }.withFetchWord 16 0x1A10, .wAddA (.dir 16)),
      ({ base with pmemP := true }.withFetchWord 16 0x1010, .ldA (.dir 16)),
      ({ base with opmsbP := true }.withFetchWord 16 0x1010, .ldWA (.dir 16)),
      ({ base with inInt := true, ic := 0x20, numN := .one }.withFetchWord 16 0x4A05, .hardMacro false 0x0A 5),
      ({ base with numN := .one }.withFetchWord 16 0x0188, .reservedG false 0x01 0x88),
      (base.withFetchWord 32 0x12348B56, .ldT 0x123456)],
      meets p.1 p.2 = true ∧ prefixFault p.2 (takeRequests p.1) = none ∧ (takeRequests p.1).mf = false := by decide
  intro p hp
  obtain ⟨h1, h2, h3⟩ := h p hp
  obtain ⟨bytes, rest, hm, -⟩ := meets_sound h1
  exact ⟨⟨bytes, rest, hm⟩, prefixesAllow_of_prefixFault h2, h3⟩

theorem test_hyps_StepRunsTheDecodedInstruction_macro_end :
    (∃ bytes rest, Meets (ending 0x4E05) (.addAn 5) bytes rest ∧ EndsMacro (takeRequests (ending 0x4E05)) bytes) ∧
    PrefixesAllow (.addAn 5) (takeRequests (ending 0x4E05)) ∧ MayEndMacro (.addAn 5) (takeRequests (ending 0x4E05)) := by
  have h := endsWith_sound (s := ending 0x4E05) (i := .addAn 5) (f := none) (by decide)
  exact ⟨h.1, h.2.1, h.2.2.2.2 rfl⟩

theorem test_hyps_StepRunsTheDecodedInstruction_outside :
    NoInterruptDue (takeRequests { base with pc := 0x7FFE }) ∧ NoInterruptDue (takeRequests { base with pc := 0x8000 }) ∧
    programEnd base ≤ firstAt { base with pc := 0x8000 } + 1 ∧ ¬programEnd base ≤ firstAt { base with pc := 0x7FFE } + 1 ∧
    (let u := takeRequests { base with pc := 0x7FFE, mem := [(0x7FFE, 0x56), (0x7FFF, 0x8B)] }
     NoInterruptDue u ∧ TwoWordsAtCounter u ∧ programEnd u ≤ secondAt u + 1) :=
  ⟨.inr (.inl rfl), .inr (.inl rfl), by decide, by decide, .inr (.inl rfl), ⟨by decide, by decide, by decide⟩, by decide⟩

theorem test_step_second_word_outside_stops :
    (match step { base with pc := 0x7FFE, mem := [(0x7FFE, 0x56), (0x7FFF, 0x8B)] } with | .fault f => some f | _ => none)
      = some .noMemory := by decide

/-- The step clears what it must: NUM is ended by the immediate that consumed it, MF by the word that ends the macro. -/
theorem test_step_ends_prefix_and_macro :
    runs { base with numN := .one, numV := 1 } 16 0x0E05 (fun t => (t.a, t.numN)) = some (0x105, .zero) ∧
    runs { base with mf := true, mc := 0x2A0 } 16 0x4E05 (fun t => (t.a, t.mf)) = some (5, false) := by decide

theorem test_hyps_CounterAdvances : base.cfg.wf = true := by decide

/-- A prefix pending before what does not consume it: the four clauses on it, WORD and WORDX, the register C row, and a hard
macro outside an interrupt. -/
theorem test_hyps_MacroEndRefusesBranchesAndPrefixes_prefix :
    (∀ p ∈ [({ base with numN := .one }.withFetchWord 16 0x1010, Instr.ldA (.dir 16)),
      ({ base with numN := .two }.withFetchWord 16 0x0000, .nop)],
      (∃ bytes rest, Meets p.1 p.2 bytes rest) ∧ ¬HasNoMeaning p.2 ∧ ¬EntersMacro p.2 ∧
      (takeRequests p.1).numN ≠ .zero ∧ ¬ConsumesNum p.2) ∧
    (∀ p ∈ [({ base with wordK := .word }.withFetchWord 16 0x157F, Instr.andAC),
      ({ base with wordK := .wordx }.withFetchWord 16 0x1F7F, .subcAC)],
      (∃ bytes rest, Meets p.1 p.2 bytes rest) ∧ (takeRequests p.1).numN = .zero ∧ (takeRequests p.1).wordK ≠ .none ∧
      ¬HasNoMeaning p.2 ∧ ¬EntersMacro p.2 ∧ OnRegisterC p.2) ∧
    (∀ p ∈ [({ base with wordK := .word }.withFetchWord 16 0x2810, Instr.stA (.dir 16)),
      ({ base with wordK := .wordx }.withFetchWord 16 0x0000, .nop)],
      (∃ bytes rest, Meets p.1 p.2 bytes rest) ∧ (takeRequests p.1).wordK ≠ .none ∧ ¬HasNoMeaning p.2 ∧ ¬EntersMacro p.2 ∧ ¬ConsumesWord p.2 ∧
      ¬OnRegisterC p.2) ∧
    (∀ p ∈ [({ base with pmemP := true }.withFetchWord 16 0x0000, Instr.nop),
      ({ base with pmemP := true }.withFetchWord 16 0x157F, .andAC)],
      (∃ bytes rest, Meets p.1 p.2 bytes rest) ∧ (takeRequests p.1).pmemP = true ∧ (takeRequests p.1).wordK = .none ∧
      ¬HasNoMeaning p.2 ∧ ¬EntersMacro p.2 ∧ ¬AccessesData p.2) ∧
    (∀ p ∈ [({ base with numN := .one }.withFetchWord 16 0x4A05, Instr.hardMacro false 0x0A 5),
      ({ base with pmemP := true }.withFetchWord 16 0xCA05, .hardMacro true 0x0A 5)],
      (∃ bytes rest, Meets p.1 p.2 bytes rest) ∧ EntersMacro p.2 ∧ (takeRequests p.1).inInt = false ∧
      ¬NonePending (takeRequests p.1)) := by
  simp only [← isReserved_iff, ← isHardMacro_iff, ← takesNum_iff, ← takesWord_iff, ← isRegisterCRow_iff, ← hasDataAccess_iff,
    ← prefixPending_eq_false]
  refine ⟨fun p hp => ?_, fun p hp => ?_, fun p hp => ?_, fun p hp => ?_, fun p hp => ?_⟩ <;>
    simp only [List.mem_cons, List.not_mem_nil, or_false] at hp <;> rcases hp with rfl | rfl <;>
    exact ⟨(meets_sound (by decide)).imp fun _ h => h.imp fun _ h => h.1, by decide⟩

/-- Prefixes, SETMC, SETFLAG, INT and every branch taken at the end of a macro (`endsWith_sound` says what `endsWith` shows). -/
theorem test_hyps_MacroEndRefusesBranchesAndPrefixes :
    (∀ p ∈ [(0x4405, Instr.num 5), (0x5410, .word (.dir 16)), (0xD410, .wordx (.dir 16)), (0x41EF, .opmsb)],
      endsWith (ending p.1) p.2 (some .prefixMisuse) = true) ∧
    (∀ p ∈ [(0x4128, Instr.setmc), (0x5810, .setflag (.dir 16)), (0x41D3, .int 3), (0x6001, .jrN 1), (0x6080, .jrB),
      (0xE001, .brN 1), (0xE080, .brB), (0x6510, .jmpM 16), (0x657F, .jmpAB), (0x6580, .jmpMB 0), (0xE510, .balM 16),
      (0xE57F, .balAB), (0xE580, .balMB 0)], endsWith (ending p.1) p.2 (some .macroEndInstr) = true) ∧
    (∀ p ∈ [(0x6201, Instr.jrc1N 1), (0x6280, .jrc1B), (0xE201, .brc1N 1), (0xE280, .brc1B), (0x657B, .jmpc1),
      (0xE57B, .balc1)], endsWith { ending p.1 with cf := true } p.2 (some .macroEndInstr) = true) ∧
    (∀ p ∈ [(0x6101, Instr.jrc0N 1), (0x6180, .jrc0B), (0xE101, .brc0N 1), (0xE180, .brc0B), (0x657A, .jmpc0),
      (0xE57A, .balc0), (0x6301, .jrz0N 1), (0x6380, .jrz0B), (0xE301, .brz0N 1), (0xE380, .brz0B), (0x657C, .jmpz0),
      (0xE57C, .balz0)], endsWith (ending p.1) p.2 (some .macroEndInstr) = true) ∧
    (∀ p ∈ [(0x6401, Instr.jrz1N 1), (0x6480, .jrz1B), (0xE401, .brz1N 1), (0xE480, .brz1B), (0x657D, .jmpz1),
      (0xE57D, .balz1)], endsWith { ending p.1 with zf := true } p.2 (some .macroEndInstr) = true) ∧
    (∀ p ∈ [(0x66FE, Instr.loopinc 0xFE), (0xE6FE, .loopincW 0xFE), (0x67FE, .loopdec 0xFE), (0xE7FE, .loopdecW 0xFE)],
      endsWith { ending p.1 with c := 1 } p.2 (some .macroEndInstr) = true) := by decide

/-- What may end a macro: an ordinary instruction, SETPC, a branch not taken, a loop that falls through (`endsWith_sound`). -/
theorem test_hyps_MacroEndRefusesBranchesAndPrefixes_allowed :
    (∀ p ∈ [(ending 0x4E05, Instr.addAn 5), (ending 0x4124, .setpc), (ending 0x6201, .jrc1N 1), (ending 0xE57B, .balc1),
      ({ ending 0x6101 with cf := true }, .jrc0N 1), (ending 0x6480, .jrz1B), ({ ending 0xE301 with zf := true }, .brz0N 1),
      (ending 0x66FE, .loopinc 0xFE), (ending 0xE7FE, .loopdecW 0xFE)], endsWith p.1 p.2 none = true) ∧
    FallsThrough (.jrc1N 1) (takeRequests (ending 0x6201)) ∧ FallsThrough .balc1 (takeRequests (ending 0xE57B)) ∧
    FallsThrough (.jrc0N 1) (takeRequests { ending 0x6101 with cf := true }) ∧
    FallsThrough .jrz1B (takeRequests (ending 0x6480)) ∧
    FallsThrough (.brz0N 1) (takeRequests { ending 0xE301 with zf := true }) ∧
    FallsThrough (.loopinc 0xFE) (takeRequests (ending 0x66FE)) :=
  ⟨by decide, ⟨1, .inl ⟨rfl, by decide⟩⟩, ⟨1, .inl ⟨rfl, by decide⟩⟩, ⟨1, .inr (.inl ⟨rfl, by decide⟩)⟩,
    ⟨1, .inr (.inr (.inl ⟨rfl, by decide⟩))⟩, ⟨1, .inr (.inr (.inr (.inl ⟨rfl, by decide⟩)))⟩,
    ⟨0xFE, .inr (.inr (.inr (.inr ⟨rfl, by decide⟩)))⟩⟩

theorem test_hyps_StepKeepsInvariant : Inv base ∧ ∃ t, step base = .next t :=
  ⟨⟨by decide, by decide, by decide, by decide, by decide, by decide, by decide, by decide, by decide⟩, ⟨_, rfl⟩⟩

theorem test_hyps_StepKeepsParameters : ∃ t, step base = .next t := ⟨_, rfl⟩

theorem test_hyps_OnlyEnableAndDisableChangeEF :
    (∃ t, exec (.reti 4) { base with inInt := true } = .next t) ∧ (∃ t, exec .nop base = .next t) ∧
    Instr.nop ≠ .enable ∧ Instr.nop ≠ .disable := ⟨goesOn_next (by decide), ⟨_, rfl⟩, by decide, by decide⟩

theorem test_hyps_OnlyRetiLeavesAnInterrupt :
    (∃ t, exec (.reti 4) { base with inInt := true } = .next t ∧ t.inInt = false) ∧
    ∃ t, exec (.int 3) base = .next t ∧ t.inInt = true := ⟨⟨_, rfl, rfl⟩, ⟨_, rfl, rfl⟩⟩

theorem test_hyps_OnlyTheActiveCounterMoves :
    (∃ t, exec (.jrN 1) { base with mf := true } = .next t) ∧ (∃ t, exec (.jrN 1) { base with inInt := true } = .next t) ∧
    (∃ t, exec (.jrN 1) base = .next t) ∧ Instr.jrN 1 ≠ .setpc ∧ Instr.jrN 1 ≠ .setmc ∧
    (∀ e op g, Instr.jrN 1 ≠ .hardMacro e op g) ∧ ∀ k, Instr.jrN 1 ≠ .int k :=
  ⟨⟨_, rfl⟩, ⟨_, rfl⟩, ⟨_, rfl⟩, by decide, by decide, by simp, by simp⟩

theorem test_hyps_OnlyClearDropsACause :
    (∃ t, exec (.clear 1) { base with ae := true } = .next t ∧ t.ae = false) ∧
    (∃ t, exec (.clear 0) { base with int0 := true } = .next t ∧ t.int0 = false) ∧
    ∃ t, exec (.clear 15) { base with int1 := true } = .next t ∧ t.int1 = false :=
  ⟨⟨_, rfl, rfl⟩, ⟨_, rfl, rfl⟩, ⟨_, rfl, rfl⟩⟩

theorem test_hyps_InterruptEntryByPriority :
    let s : State := { base with ef := true, int1 := true, requests := [{ int0 := true, int1 := true }] }
    let none0 : State := { s with requests := [], ae := true }
    let only1 : State := { s with requests := [] }
    s.cfg.wf = true ∧ s.ef = true ∧ s.inInt = false ∧ NonePending s ∧ (takeRequests s).int0 = true ∧
    (takeRequests none0).int0 = false ∧ none0.cfg.userMode = true ∧ (takeRequests none0).ae = true ∧
    (takeRequests only1).int0 = false ∧ (only1.cfg.userMode && (takeRequests only1).ae) = false ∧
    (takeRequests only1).int1 = true := by unfold NonePending; decide

theorem test_hyps_NoInterruptWhileHeldOff :
    let s : State := { base with ef := true, ae := true, requests := [{ int0 := true, int1 := false }] }
    NoInterruptDue (takeRequests { s with inInt := true }) ∧ NoInterruptDue (takeRequests { s with ef := false }) ∧
    NoInterruptDue (takeRequests { s with numN := .one }) ∧ NoInterruptDue (takeRequests { s with wordK := .wordx }) ∧
    NoInterruptDue (takeRequests { s with opmsbP := true }) ∧ NoInterruptDue (takeRequests { s with pmemP := true }) ∧
    NoInterruptDue (takeRequests { s with requests := [], ae := false }) := by
  refine ⟨.inl rfl, .inr (.inl rfl), .inr (.inr (.inl ?_)), .inr (.inr (.inl ?_)), .inr (.inr (.inl ?_)),
    .inr (.inr (.inl ?_)), .inr (.inr (.inr ⟨rfl, rfl, rfl⟩))⟩ <;> unfold NonePending <;> decide

theorem test_hyps_SoftwareInterrupt :
    (({ base with inInt := true } : State).inInt = true) ∧ base.inInt = false ∧ base.cfg.wf = true := by decide

/-- The operands are those of `ReadsByte`. -/
theorem test_hyps_SetflagLoadsTheFlags :
    let s : State := { base with mem := [(0x807D, 0x02)] }
    let t : State := { s with inInt := true }
    let refused : State := { base with uf := true, x := 2047 }
    plainByte (.dir 125) s = true ∧ s.inInt = false ∧ (byteAt (ea (.dir 125) s) s).getLsbD 1 ≠ s.mf ∧
    plainByte (.dir 124) s = true ∧ (byteAt (ea (.dir 124) s) s).getLsbD 1 = s.mf ∧
    plainByte (.dir 125) t = true ∧ t.inInt = true ∧
    isProtected refused (restricted .x) (ea .x refused) = true ∧ refused.inInt = false ∧
    isProtected { refused with inInt := true } (restricted .x) (ea .x { refused with inInt := true }) = true := by decide

/-- A refused byte is free, so MF is chosen from it: a state for each of the two clauses. -/
theorem test_hyps_SetflagLoadsTheFlags_refused :
    let s := fun m : Bool => ({ base with uf := true, x := 2047, mf := m } : State)
    let v := Config.drawByte base.draws
    (∀ m, isProtected (s m) (restricted .x) (ea .x (s m)) = true ∧ (s m).inInt = false ∧ (s m).draws = base.draws) ∧
    v.getLsbD 1 ≠ (s (!v.getLsbD 1)).mf ∧ v.getLsbD 1 = (s (v.getLsbD 1)).mf :=
  ⟨by decide, by simp, rfl⟩

theorem test_hyps_RetiLoadsTheFlagsAndReturns :
    let s : State := { base with inInt := true, mem := [(0x807D, 0x02)] }
    let past : State := { s with cfg := { small with memBytes := 0x807D } }
    base.inInt = false ∧ s.inInt = true ∧ physical s (BitVec.ofNat 24 (125 : Fin 126).val) < s.cfg.memBytes ∧
    physical s (BitVec.ofNat 24 (0 : Fin 126).val) < s.cfg.memBytes ∧
    past.cfg.memBytes ≤ physical past (BitVec.ofNat 24 (125 : Fin 126).val) := by decide

theorem test_hyps_ClearDropsItsCause : (2 : BitVec 4) ≠ 0 ∧ (14 : BitVec 4) ≠ 1 ∧ (14 : BitVec 4) ≠ 15 := by decide

theorem test_hyps_PairAndCounterOperations : base.cfg.wf = true := by decide

theorem test_hyps_Multiplication :
    base.cfg.hasMul = true ∧ storableWord (.dir 0) base = true ∧
    ({ base with cfg := { small with hasMul := false } } : State).cfg.hasMul = false := by decide

theorem test_hyps_SystemRegisters :
    base.cfg.userMode = true ∧ ({ base with cfg := { small with userMode := false } } : State).cfg.userMode = false := by
  decide

theorem test_hyps_PortTransfers :
    ({ base with inputs := [7, 8] } : State).inputs = 7 :: [8] ∧ base.inputs = [] := by decide

/-- The hypotheses of `ReadsByte`, for PortTransfers, SetflagLoadsTheFlags, ByteLoads, AccumulatorByteOperations, ConsumersOfWord and
MovStoresAtX: plain in every form and at the last byte of memory and the first above the limit; refused at the last below it;
absent at the first past the memory. -/
theorem test_hyps_ReadsByte :
    let s : State := { base with uf := true, x := 2048 }
    plainByte (.dir 0) s = true ∧ plainByte (.dir 125) s = true ∧ plainByte .x s = true ∧
    plainByte .x { s with x := 0x7FFF } = true ∧ plainByte .ab { s with b := 0x1000 } = true ∧
    plainByte (.mb 0) { s with b := 0x1000 } = true ∧
    isProtected { s with x := 2047 } (restricted .x) (ea .x { s with x := 2047 }) = true ∧
    isProtected s (restricted .ab) (ea .ab s) = true ∧ isProtected s (restricted (.mb 0)) (ea (.mb 0) s) = true ∧
    (let t : State := { s with x := 0x8000 }
     isProtected t (restricted .x) (ea .x t) = false ∧ t.cfg.memBytes ≤ physical t (ea .x t)) := by decide

/-- The hypotheses of `ReadsWord` and `ReadsWordThen`, for WordLoadsAndPrefixes, MovStoresAtX, ModifiesWord and, in the direct
form, Multiplication. -/
theorem test_hyps_ReadsWord :
    let s : State := { base with uf := true, x := 2048 }
    let mixed : State := { s with cfg := { small with protectLimit := 2047 }, x := 2046 }
    let past : State := { s with cfg := { small with memBytes := 0xFFFF }, x := 0x7FFE }
    let both : State := { s with cfg := { small with memBytes := 0x87FF, protectLimit := 2047 }, x := 2046 }
    let direct : State := { s with cfg := { small with memBytes := 0x8001 } }
    oddAddress (ea .x { s with x := 0x7FFF }) = true ∧
    plainWord .x s = true ∧ plainWord .x { s with x := 0x7FFE } = true ∧ plainWord (.dir 124) s = true ∧
    plainWord .ab { s with b := 0x1000 } = true ∧ plainWord (.mb 0) { s with b := 0x1000 } = true ∧
    oddAddress (ea .x { s with x := 2046 }) = false ∧
    isProtected { s with x := 2046 } (restricted .x) (ea .x { s with x := 2046 } + 1) = true ∧
    oddAddress (ea .x mixed) = false ∧ isProtected mixed (restricted .x) (ea .x mixed) = true ∧
    plainAt (restricted .x) (ea .x mixed + 1) mixed = true ∧
    oddAddress (ea .x past) = false ∧ isProtected past (restricted .x) (ea .x past + 1) = false ∧
    past.cfg.memBytes ≤ physical past (ea .x past + 1) ∧
    isProtected both (restricted .x) (ea .x both) = true ∧ isProtected both (restricted .x) (ea .x both + 1) = false ∧
    both.cfg.memBytes ≤ physical both (ea .x both + 1) ∧
    oddAddress (ea (.dir 0) direct) = false ∧ isProtected direct (restricted (.dir 0)) (ea (.dir 0) direct + 1) = false ∧
    direct.cfg.memBytes ≤ physical direct (ea (.dir 0) direct + 1) := by decide

theorem test_hyps_WordLoadsAndPrefixes :
    base.cfg.hasLdWX = false ∧ ({ base with cfg := { small with hasLdWX := true } } : State).cfg.hasLdWX = true := by
  decide

theorem test_hyps_NumPrefixAndItsImmediates :
    ({ base with numN := .one } : State).numN = .one ∧ base.numN = .zero ∧
    ({ base with numN := .two } : State).numN = .two := by decide

/-- After WORDX the operands are those of `ReadsByte`. -/
theorem test_hyps_ConsumersOfWord :
    let s : State := { base with wordK := .word, wordG := 126, x := 0x40 }
    let refused : State := { s with uf := true }
    let past : State := { s with cfg := { small with memBytes := 0x8042 } }
    s.wordK = .word ∧ Operand.toByte .x = s.wordG ∧ notFour (ea .x { s with x := 0x42 }) = true ∧
    notFour (ea .x s) = false ∧ plainAt (restricted .x) (ea .x s + 2) s = true ∧
    isProtected refused (restricted .x) (ea .x refused + 2) = true ∧
    isProtected past (restricted .x) (ea .x past + 2) = false ∧ past.cfg.memBytes ≤ physical past (ea .x past + 2) ∧
    Operand.toByte (.dir 125) ≠ s.wordG ∧ ({ s with wordK := .wordx } : State).wordK = .wordx ∧
    plainByte (.dir 125) { s with wordK := .wordx } = true := by decide

/-- The hypotheses of RelativeJumps, AbsoluteJumps, RelativeLinks and AbsoluteLinks: every condition both ways, in each counter. -/
theorem test_hyps_Jumps :
    let s : State := { base with cf := true, zf := true }
    base.cfg.wf = true ∧ s.cf = true ∧ s.zf = true ∧ (!base.cf) = true ∧ (!base.zf) = true ∧
    (!s.cf) = false ∧ (!s.zf) = false ∧ base.cf = false ∧ base.zf = false ∧
    ({ base with mf := true } : State).mf = true ∧ ({ base with inInt := true } : State).inInt = true := by decide

theorem test_hyps_Loops :
    base.cfg.wf = true ∧ ({ base with c := 1 } : State).c ≠ 0 ∧ ({ base with c := 0xFFFF } : State).c ≠ 0 ∧ base.c = 0 := by
  decide

/-- The hypotheses of `StoresByte`, that is of `StoresEach` on one byte, for ByteStores, InStoresThePortInput, MovStoresAtX and, in
the direct form, HardMacroEntry. -/
theorem test_hyps_StoresByte :
    let s : State := { base with uf := true, x := 2048 }
    let low : State := { s with x := 2047 }
    let dropped : State := { s with pmemP := true, x := 0xFFFF }
    let past : State := { s with x := 0x8000 }
    let tiny : State := { base with cfg := { small with dataBase := 0 }, x := 0x101 }
    storableByte (.dir 0) s = true ∧ storableByte .x s = true ∧ storableByte .x { s with x := 0x7FFF } = true ∧
    storableByte .ab { s with b := 0x1000 } = true ∧ storableByte (.mb 0) { s with b := 0x1000 } = true ∧
    isProtected low (restricted .x) (ea .x low) = true ∧
    isProtected dropped (restricted .x) (ea .x dropped) = false ∧ (dropped.pmemP && userMode dropped) = true ∧
    isProtected past (restricted .x) (ea .x past) = false ∧ (past.pmemP && userMode past) = false ∧
    past.cfg.memBytes ≤ physical past (ea .x past) ∧
    plainByte .x tiny = true ∧ (tiny.pmemP && userMode tiny) = false ∧ hitsNext tiny (physical tiny (ea .x tiny)) = true := by
  decide

/-- The hypotheses of `StoresWord` and `StoresTriple`, for WordAndTripleStores, InStoresThePortInput and MovStoresAtX. -/
theorem test_hyps_StoresWord :
    let s : State := { base with uf := true, x := 2048 }
    let low : State := { s with x := 2046 }
    let dropped : State := { s with pmemP := true, x := 0xFFFE }
    oddAddress (ea .x { s with x := 2047 }) = true ∧
    storableWord .x s = true ∧ storableWord .x { s with x := 0x7FFE } = true ∧ storableWord (.dir 124) s = true ∧
    oddAddress (ea .x low) = false ∧ isProtected low (restricted .x) (ea .x low + 1) = true ∧
    oddAddress (ea .x dropped) = false ∧ isProtected dropped (restricted .x) (ea .x dropped) = false ∧
    (dropped.pmemP && userMode dropped) = true ∧
    notFour (ea .x low) = true ∧ storableTriple .x { s with x := 0x7FFC } = true ∧ storableTriple (.dir 124) s = true ∧
    notFour (ea .x { s with x := 2044 }) = false ∧
    isProtected { s with x := 2044 } (restricted .x) (ea .x { s with x := 2044 } + 2) = true ∧
    notFour (ea .x { dropped with x := 0xFFFC }) = false ∧
    isProtected { dropped with x := 0xFFFC } (restricted .x) (ea .x { dropped with x := 0xFFFC }) = false := by decide

/-- The hypotheses of `StoresEach` on the bytes of a word: the low byte refused and the upper one stored; the upper one past the
memory, or in the next instruction, after the low one was stored or refused; the upper one dropped after the low one was
refused; and the low one in the next instruction. -/
theorem test_hyps_StoresEach :
    let s : State := { base with uf := true, x := 2046, cfg := { small with protectLimit := 2047 } }
    let refused : State := { s with ae := true }
    let past : State := { s with x := 0x7FFE, cfg := { small with memBytes := 0xFFFF } }
    let refusedPast : State := { s with ae := true, cfg := { small with memBytes := 0x87FF, protectLimit := 2047 } }
    let refusedDropped : State := { refused with pmemP := true }
    let tiny : State := { s with x := 0x100, cfg := { small with dataBase := 0 } }
    let tinyUpper : State := { s with x := 0xFE, pc := 0xFF, cfg := { small with dataBase := 0 } }
    isProtected s (restricted .x) (ea .x s) = true ∧ storableAt (restricted .x) (ea .x s + 1) refused = true ∧
    storableAt (restricted .x) (ea .x past) past = true ∧
    isProtected past (restricted .x) (ea .x past + 1) = false ∧ (past.pmemP && userMode past) = false ∧
    past.cfg.memBytes ≤ physical past (ea .x past + 1) ∧
    isProtected refusedPast (restricted .x) (ea .x refusedPast) = true ∧
    isProtected refusedPast (restricted .x) (ea .x refusedPast + 1) = false ∧
    refusedPast.cfg.memBytes ≤ physical refusedPast (ea .x refusedPast + 1) ∧
    isProtected refusedDropped (restricted .x) (ea .x refusedDropped) = true ∧
    isProtected refusedDropped (restricted .x) (ea .x refusedDropped + 1) = false ∧
    (refusedDropped.pmemP && userMode refusedDropped) = true ∧
    (let u : State := { tiny with uf := false }
     plainAt (restricted .x) (ea .x u) u = true ∧ (u.pmemP && userMode u) = false ∧
     hitsNext u (physical u (ea .x u)) = true) ∧
    (let u : State := { tinyUpper with uf := false }
     storableAt (restricted .x) (ea .x u) u = true ∧ plainAt (restricted .x) (ea .x u + 1) u = true ∧
     hitsNext u (physical u (ea .x u + 1)) = true) := by decide

theorem test_hyps_InStoresThePortInput :
    ({ base with inputs := [7, 8] } : State).inputs = 7 :: [8] ∧ base.inputs = [] := by decide

/-- The hypotheses of `ModifiesByte`, for ModifyByteAlone and ModifyByteWithRegister; the operands are those of `ReadsByte`. -/
theorem test_hyps_ModifiesByte :
    let s : State := { base with uf := true, x := 2047 }
    let past : State := { s with x := 0x8000 }
    let dropped : State := { s with pmemP := true, x := 0xFFFF }
    let tiny : State := { base with cfg := { small with dataBase := 0 }, x := 0x101 }
    storableByte (.dir 125) s = true ∧ storableByte .x { s with x := 2048 } = true ∧
    storableByte .ab { s with b := 0x1000 } = true ∧ isProtected s (restricted .x) (ea .x s) = true ∧
    plainByte .x dropped = true ∧ (dropped.pmemP && userMode dropped) = true ∧
    plainByte .x tiny = true ∧ (tiny.pmemP && userMode tiny) = false ∧ hitsNext tiny (physical tiny (ea .x tiny)) = true ∧
    isProtected past (restricted .x) (ea .x past) = false ∧ past.cfg.memBytes ≤ physical past (ea .x past) := by decide

/-- The hypotheses of `ModifiesWord`, for ModifyWordAlone and ModifyWordWithRegister; the other clauses' are those of `ReadsWord` and
`StoresEach`. -/
theorem test_hyps_ModifiesWord :
    let s : State := { base with uf := true, x := 2046 }
    let dropped : State := { s with pmemP := true, x := 0xFFFE }
    storableWord (.dir 124) s = true ∧ storableWord .x { s with x := 2048 } = true ∧
    storableWord .ab { s with b := 0x1000 } = true ∧
    oddAddress (ea .x s) = false ∧ isProtected s (restricted .x) (ea .x s + 1) = true ∧
    plainWord .x dropped = true ∧ (dropped.pmemP && userMode dropped) = true := by decide

/-- For MovStoresAtX: a source that is plain, refused, absent, or at an odd address, and [X] storable, refused or odd after it. -/
theorem test_hyps_MovStoresAtX :
    let s : State := { base with x := 0x40 }
    let user : State := { s with uf := true, a := 0, b := 0x1000 }
    plainByte (.dir 125) s = true ∧ storableByte .x s = true ∧ plainWord (.dir 124) s = true ∧ storableWord .x s = true ∧
    oddAddress (ea (.dir 125) s) = true ∧
    plainByte .ab user = true ∧ isProtected user (restricted .x) (ea .x user) = true ∧
    plainWord .ab user = true ∧ isProtected user (restricted .x) (ea .x user + 1) = true ∧
    (let refused : State := { user with b := 0x10, x := 0x1000 }
     isProtected refused (restricted .ab) (ea .ab refused + 1) = true ∧ storableByte .x (afterRefusal 1 refused) = true ∧
     storableWord .x (afterRefusal 2 refused) = true) ∧
    (let past : State := { s with b := 0x8000 }
     isProtected past (restricted .ab) (ea .ab past + 1) = false ∧ past.cfg.memBytes ≤ physical past (ea .ab past) ∧
     past.cfg.memBytes ≤ physical past (ea .ab past + 1)) ∧
    oddAddress (ea .x { s with x := 0x41 }) = true := by decide

theorem test_hyps_HardMacroEntry :
    let dropped : State := { base with uf := true, pmemP := true }
    let past : State := { base with cfg := { small with memBytes := 0x8000 } }
    let tiny : State := { base with cfg := { small with dataBase := 0 }, pc := 0 }
    base.inInt = false ∧ base.mf = false ∧ base.cfg.wf = true ∧ storableByte (.dir 0) base = true ∧
    isProtected dropped false (ea (.dir 0) dropped) = false ∧ (dropped.pmemP && userMode dropped) = true ∧
    past.cfg.wf = true ∧ past.cfg.memBytes ≤ physical past (ea (.dir 0) past) ∧
    plainAt false (ea (.dir 0) tiny) tiny = true ∧ hitsNext tiny (physical tiny (ea (.dir 0) tiny)) = true ∧
    ({ base with inInt := true } : State).inInt = true := by decide

theorem test_hyps_PmemaccReachesProgramMemory :
    base.cfg.hasPmemacc = false ∧ ({ base with cfg := { small with hasPmemacc := true } } : State).cfg.hasPmemacc = true ∧
    base.numN = .zero ∧ base.wordK = .none ∧ base.pmemP = false ∧
    ({ base with numN := .two } : State).numN ≠ .zero ∧ ({ base with wordK := .wordx } : State).wordK ≠ .none ∧
    ({ base with pmemP := true } : State).pmemP = true := by decide

/-- R100: WORD, then PMEMACC, is misuse; OPMSB does not outlive PMEMACC. -/
theorem test_pmemacc_after_prefix :
    let has : State := { base with cfg := { small with hasPmemacc := true } }
    pmemacc { has with wordK := .word } = .fault .prefixMisuse ∧
    pmemacc { has with opmsbP := true } = .next { has with pmemP := true } := ⟨rfl, rfl⟩

theorem test_hyps_ReadingFrames :
    (∀ i ∈ [Instr.ldA (.dir 16), .ldWA (.dir 16), .ldB .x, .ldWB .x, .ldC .ab, .ldWC .ab, .ldX (.mb 0), .wLdX (.mb 0),
      .andA .x, .xorA .x, .orA .x, .wAndA .x, .wXorA .x, .wOrA .x, .addA .x, .addcA .x, .subA .x, .subcA .x, .wAddA .x,
      .wAddcA .x, .wSubA .x, .wSubcA .x], goesOn i base = true) ∧
    goesOn (.ldWX .x) { base with cfg := { small with hasLdWX := true } } = true := by decide

theorem test_hyps_StoreFrames :
    ∀ i ∈ [Instr.stA .x, .stB .x, .stC .x, .stX (.dir 1), .zero .x, .getflag .x, .stWA .x, .stWB .x, .stWC .x, .zeroW .x,
      .stTX (.dir 4)], goesOn i base = true := by decide

theorem test_hyps_ModifyByteFrames :
    ∀ i ∈ [Instr.dincM .x, .ddecM .x, .incM .x, .inccM .x, .decM .x, .deccM .x, .addM .x, .addcM .x, .subM .x, .subcM .x,
      .shl .x, .shlc .x, .shr .x, .shrc .x, .andM .x, .xorM .x, .orM .x, .decKeep 124], goesOn i base = true := by decide

theorem test_hyps_ModifyWordFrames :
    ∀ i ∈ [Instr.dincWM .x, .ddecWM .x, .incWM .x, .inccWM .x, .decWM .x, .deccWM .x, .addWM .x, .addcWM .x, .subWM .x,
      .subcWM .x, .shlW .x, .shlcW .x, .shrW .x, .shrcW .x, .andWM .x, .xorWM .x, .orWM .x, .decWKeep],
      goesOn i base = true := by decide

theorem test_hyps_OtherFrames :
    (∀ i ∈ [Instr.mov (.dir 1), .movW (.dir 2), .out .x, .word .x, .wordx .x, .inp .x, .inpW .x, .setflag .x,
      .hardMacro false 1 5, .mulx], goesOn i base = true) ∧ goesOn (.reti 124) { base with inInt := true } = true := by
  decide

theorem test_hyps_LoadsReturnStoredData :
    let s : State := { base with c := 0x1299, x := 0x7FFC }
    s.mem.wf = true ∧ storableByte .x s = true ∧ storableWord .x s = true ∧ storableTriple .x s = true ∧
    (∀ i ∈ [Instr.stA .x, .stB .x, .stC .x, .stX .x, .zero .x, .getflag .x, .stWA .x, .stWB .x, .stWC .x, .zeroW .x, .stTX .x],
      goesOn i s = true) := by decide

end Sys2Proof.Tests
end

section
/-! PROOFS. What keeps the parameters and the invariant: each named operation once, then each instruction by its family, then
the step. Settles the statements on the invariant and on the parameters. -/

namespace Sys2Proof.Machine

/-! ## The invariant apart from the prefixes -/

/-- Every clause of the invariant but the one on the prefixes, which `retire` meets by itself. -/
structure CoreInv (s : State) : Prop where
  cfg_wf : s.cfg.wf = true
  mem_wf : s.mem.wf = true
  mem_below : s.mem.below s.cfg.memBytes = true
  pc_ok : counterOk s.cfg.pcBits s.pc.toNat = true
  mc_ok : counterOk s.cfg.mcBits s.mc.toNat = true
  ic_ok : counterOk s.cfg.icBits s.ic.toNat = true
  uf_absent : s.cfg.userMode = false → s.uf = false
  ae_absent : s.cfg.userMode = false → s.ae = false

theorem inv_iff (s : State) : Inv s ↔ CoreInv s ∧ prefixCount s ≤ 1 where
  mp h := ⟨⟨h.cfg_wf, h.mem_wf, h.mem_below, h.pc_ok, h.mc_ok, h.ic_ok, h.uf_absent, h.ae_absent⟩, h.one_prefix⟩
  mpr := fun ⟨h, p⟩ => ⟨h.cfg_wf, h.mem_wf, h.mem_below, h.pc_ok, h.mc_ok, h.ic_ok, h.uf_absent, h.ae_absent, p⟩

/-- The fields `CoreInv` speaks of. -/
def guarded (s : State) : Params × Memory × BitVec 25 × BitVec 17 × BitVec 17 × Bool × Bool :=
  (s.cfg, s.mem, s.pc, s.mc, s.ic, s.uf, s.ae)

theorem coreInv_of_guarded_eq {s t : State} (h : guarded t = guarded s) (w : CoreInv s) : CoreInv t := by
  simp only [guarded, Prod.mk.injEq] at h
  obtain ⟨hcfg, hmem, hpc, hmc, hic, huf, hae⟩ := h
  constructor <;> simp only [hcfg, hmem, hpc, hmc, hic, huf, hae]
  exacts [w.cfg_wf, w.mem_wf, w.mem_below, w.pc_ok, w.mc_ok, w.ic_ok, w.uf_absent, w.ae_absent]

/-- The widths of the three counters, under the parameters' ranges (R6, R23, R24, R25). -/
theorem CoreInv.counterBits {s : State} (h : CoreInv s) :
    (1 ≤ s.cfg.pcBits ∧ s.cfg.pcBits ≤ 25) ∧ (1 ≤ s.cfg.mcBits ∧ s.cfg.mcBits ≤ 17) ∧
      (1 ≤ s.cfg.icBits ∧ s.cfg.icBits ≤ 17) := by
  have w := h.cfg_wf
  simp only [Params.wf, Bool.and_eq_true, decide_eq_true_eq] at w
  omega

/-- The active counter is even (R23, R24, R25). -/
theorem CoreInv.activeCounter_even {s : State} (h : CoreInv s) : (activeCounter s).toNat % 2 = 0 := by
  have pc := h.pc_ok
  have mc := h.mc_ok
  have ic := h.ic_ok
  simp only [counterOk, Bool.and_eq_true, decide_eq_true_eq] at pc mc ic
  unfold activeCounter
  split_ifs <;> rw [BitVec.toNat_setWidth] <;> omega

/-! ## Keeping the parameters and the invariant -/

/-- Going from `s` to `t` leaves the parameters and keeps every clause of the invariant but the one on the prefixes. -/
structure Keeps (s t : State) : Prop where
  cfg : t.cfg = s.cfg
  inv : CoreInv s → CoreInv t

theorem Keeps.refl (s : State) : Keeps s s := ⟨rfl, id⟩

theorem Keeps.trans {s t u : State} (h : Keeps s t) (k : Keeps t u) : Keeps s u := ⟨k.cfg.trans h.cfg, k.inv ∘ h.inv⟩

theorem keeps_of_guarded_eq {s t : State} (h : guarded t = guarded s) : Keeps s t :=
  ⟨congrArg Prod.fst h, coreInv_of_guarded_eq h⟩

/-- However an instruction goes on from `s`, it keeps the parameters and the invariant. -/
def OutKeeps (s : State) (out : Out) : Prop := ∀ t, out = .next t → Keeps s t

/-- However an operation goes on from `s`, it keeps the parameters and the invariant. -/
def ResKeeps {α : Type} (s : State) (r : Res α) : Prop := ∀ v t, r = .ok (v, t) → Keeps s t

theorem outKeeps_next {s t : State} (h : Keeps s t) : OutKeeps s (.next t) := by
  rintro _ ⟨⟩; exact h

theorem outKeeps_fault (s : State) (f : Fault) : OutKeeps s (.fault f) := by
  intro t h; cases h

/-- An instruction that goes on and writes no field the invariant speaks of. -/
theorem outKeeps_guarded {s t : State} (h : guarded t = guarded s) : OutKeeps s (.next t) :=
  outKeeps_next (keeps_of_guarded_eq h)

theorem outKeeps_ite {s : State} {p : Prop} [Decidable p] {a b : Out} (ha : OutKeeps s a) (hb : OutKeeps s b) :
    OutKeeps s (if p then a else b) := by split_ifs <;> assumption

theorem outKeeps_finish {α : Type} {s : State} {r : Res α} {k : α → State → State} (h : ResKeeps s r)
    (hk : ∀ v u, Keeps u (k v u)) : OutKeeps s (Res.finish r k) := by
  intro t ht
  obtain ⟨v, u, hr, rfl⟩ := Res.finish_next ht
  exact (h v u hr).trans (hk v u)

theorem resKeeps_ok {α : Type} {s t : State} (v : α) (h : Keeps s t) : ResKeeps s (.ok (v, t)) := by
  rintro _ _ ⟨⟩; exact h

theorem resKeeps_error {α : Type} (s : State) (f : Fault) : ResKeeps s (.error f : Res α) := by
  intro v t h; cases h

theorem resKeeps_ite {α : Type} {s : State} {p : Prop} [Decidable p] {a b : Res α} (ha : ResKeeps s a) (hb : ResKeeps s b) :
    ResKeeps s (if p then a else b) := by split_ifs <;> assumption

theorem resKeeps_andThen {α β : Type} {s : State} {r : Res α} {k : α → State → Res β} (h : ResKeeps s r)
    (hk : ∀ v u, ResKeeps u (k v u)) : ResKeeps s (Res.andThen r k) := by
  intro v t ht
  obtain ⟨w, u, hr, hu⟩ := Res.andThen_eq_ok ht
  exact (h w u hr).trans (hk w u v t hu)

/-! ## Counters -/

/-- An even value cut to a counter's width is a counter's value. -/
theorem counterOk_keepLow {bits width : Nat} {v : Pair} (h1 : 1 ≤ bits) (hw : bits ≤ width) (h32 : bits ≤ 32)
    (even : v.toNat % 2 = 0) : counterOk bits ((keepLow bits v).setWidth width).toNat = true := by
  have lt : v.toNat % 2 ^ bits < 2 ^ bits := Nat.mod_lt _ (Nat.two_pow_pos bits)
  have le : 2 ^ bits ≤ 2 ^ width := Nat.pow_le_pow_right (by omega) hw
  have parity : v.toNat % 2 ^ bits % 2 = 0 := by rw [Nat.mod_mod_of_dvd _ (dvd_pow_self 2 (by omega)), even]
  rw [BitVec.toNat_setWidth, keepLow_toNat v h32, Nat.mod_eq_of_lt (by omega), counterOk]
  simp [lt, parity]

theorem keeps_setPC {s : State} {v : Pair} (even : CoreInv s → v.toNat % 2 = 0) : Keeps s (setPC v s) := by
  refine ⟨rfl, fun h => ?_⟩
  obtain ⟨⟨lo, hi⟩, _, _⟩ := h.counterBits
  exact { h with pc_ok := counterOk_keepLow lo hi (hi.trans (by decide)) (even h) }

theorem keeps_setMC {s : State} {v : Pair} (even : CoreInv s → v.toNat % 2 = 0) : Keeps s (setMC v s) := by
  refine ⟨rfl, fun h => ?_⟩
  obtain ⟨_, ⟨lo, hi⟩, _⟩ := h.counterBits
  exact { h with mc_ok := counterOk_keepLow lo hi (hi.trans (by decide)) (even h) }

theorem keeps_setIC {s : State} {v : Pair} (even : CoreInv s → v.toNat % 2 = 0) : Keeps s (setIC v s) := by
  refine ⟨rfl, fun h => ?_⟩
  obtain ⟨_, _, lo, hi⟩ := h.counterBits
  exact { h with ic_ok := counterOk_keepLow lo hi (hi.trans (by decide)) (even h) }

theorem keeps_setXC {s : State} {v : Pair} (even : CoreInv s → v.toNat % 2 = 0) : Keeps s (setXC v s) := by
  unfold setXC
  split_ifs
  · exact keeps_setIC even
  · exact keeps_setMC even
  · exact keeps_setPC even

theorem shiftLeft_one_even (v : Pair) : (v <<< 1).toNat % 2 = 0 := by
  rw [BitVec.toNat_shiftLeft, Nat.shiftLeft_eq]; omega

theorem mul_two_even (v : Pair) : (v * 2).toNat % 2 = 0 := by
  rw [BitVec.toNat_mul, show (2 : Pair).toNat = 2 from rfl]; omega

theorem add_even {u v : Pair} (hu : u.toNat % 2 = 0) (hv : v.toNat % 2 = 0) : (u + v).toNat % 2 = 0 := by
  rw [BitVec.toNat_add]; omega

/-- The counter moves past whole words. -/
theorem keeps_advance {n : Nat} (s : State) (hn : n % 2 = 0) : Keeps s (advance n s) :=
  keeps_setXC fun h => by
    have := h.activeCounter_even
    rw [BitVec.toNat_add, BitVec.toNat_ofNat]; omega

theorem keeps_enterInterrupt (k : BitVec 4) (s : State) : Keeps s (enterInterrupt k s) := by
  refine Keeps.trans (t := { s with inInt := true }) (keeps_of_guarded_eq rfl) (keeps_setIC fun _ => ?_)
  exact add_even (mul_two_even _) rfl

/-! ## Branches -/

theorem relTarget_even (n : Byte) {s : State} (h : CoreInv s) : (relTarget n s).toNat % 2 = 0 :=
  add_even h.activeCounter_even (mul_two_even _)

theorem relTargetB_even {s : State} (h : CoreInv s) : (relTargetB s).toNat % 2 = 0 :=
  add_even h.activeCounter_even (mul_two_even _)

theorem absTargetM_even (m : Fin 122) : (absTargetM m).toNat % 2 = 0 := by
  rw [absTargetM, BitVec.toNat_ofNat]; omega

/-- The millicode entries stand at even addresses, under the parameters' ranges (R391). -/
theorem macroEntry_even (op : BitVec 6) {s : State} (h : CoreInv s) : (macroEntry op s).toNat % 2 = 0 := by
  have w := h.cfg_wf
  simp only [Params.wf, Bool.and_eq_true, decide_eq_true_eq] at w
  obtain ⟨⟨_, base⟩, stride⟩ := w
  have prod : op.toNat * s.cfg.macroStride % 2 = 0 := by rw [Nat.mul_mod, stride, Nat.mul_zero, Nat.zero_mod]
  rw [macroEntry, BitVec.toNat_ofNat]; omega

theorem keeps_linkTo {target : Pair} {s : State} (even : CoreInv s → target.toNat % 2 = 0) : Keeps s (linkTo target s) :=
  Keeps.trans (t := setAB (linkValue s) s) (keeps_of_guarded_eq rfl)
    (keeps_setXC fun h => even (coreInv_of_guarded_eq (s := setAB (linkValue s) s) rfl h))

theorem keeps_jumpIf {cond : Bool} {target : Pair} {s : State} (even : CoreInv s → target.toNat % 2 = 0) :
    Keeps s (jumpIf cond target s) := by
  unfold jumpIf
  split_ifs
  · exact keeps_setXC even
  · exact .refl s

theorem keeps_linkIf {cond : Bool} {target : Pair} {s : State} (even : CoreInv s → target.toNat % 2 = 0) :
    Keeps s (linkIf cond target s) := by
  unfold linkIf
  split_ifs
  · exact keeps_linkTo even
  all_goals exact keeps_of_guarded_eq rfl

theorem keeps_loopStep (n : Byte) (d : Triple) (s : State) : Keeps s (loopStep n d s) := by
  unfold loopStep
  split_ifs
  · refine Keeps.trans (t := { s with c := s.c - 1, x := s.x + d }) (keeps_of_guarded_eq rfl) (keeps_jumpIf fun h => ?_)
    exact relTarget_even n (s := { s with c := s.c - 1, x := s.x + d }) h
  · exact .refl s

/-! ## Memory -/

/-- AE is set by a refused access alone, which needs USER_MODE (R33, R70). -/
theorem keeps_setAE {r : Bool} {addr : Triple} {s : State} (h : isProtected s r addr = true) :
    Keeps s { s with ae := true } :=
  ⟨rfl, fun w => { w with
    ae_absent := fun absent => by
      have : s.cfg.userMode = false := absent
      simp [isProtected, userMode, this] at h }⟩

theorem resKeeps_readByteAt (r : Bool) (addr : Triple) (s : State) : ResKeeps s (readByteAt r addr s) := by
  unfold readByteAt
  split_ifs with protect
  · exact resKeeps_ok _ ((keeps_setAE protect).trans (keeps_of_guarded_eq rfl))
  · exact resKeeps_ok _ (.refl s)
  · exact resKeeps_error s _

theorem resKeeps_writeByteAt (r : Bool) (addr : Triple) (v : Byte) (s : State) : ResKeeps s (writeByteAt r addr v s) := by
  unfold writeByteAt
  split_ifs with protect dropped inside adjacent
  · exact resKeeps_ok _ (keeps_setAE protect)
  · exact resKeeps_ok _ (.refl s)
  · exact resKeeps_error s _
  · exact resKeeps_ok _ ⟨rfl, fun w => { w with
      mem_wf := Memory.wf_write _ _ _ w.mem_wf, mem_below := Memory.below_write inside _ _ w.mem_below }⟩
  · exact resKeeps_error s _

theorem resKeeps_readWordAt (r : Bool) (addr : Triple) (s : State) : ResKeeps s (readWordAt r addr s) :=
  resKeeps_ite (resKeeps_error s _) <| resKeeps_andThen (resKeeps_readByteAt r addr s) fun _ t =>
    resKeeps_andThen (resKeeps_readByteAt r _ t) fun _ u => resKeeps_ok _ (.refl u)

theorem resKeeps_writeWordAt (r : Bool) (addr : Triple) (v : Word) (s : State) : ResKeeps s (writeWordAt r addr v s) :=
  resKeeps_ite (resKeeps_error s _) <| resKeeps_andThen (resKeeps_writeByteAt r addr _ s) fun _ t =>
    resKeeps_writeByteAt r _ _ t

theorem resKeeps_writeTripleAt (r : Bool) (addr : Triple) (v : Triple) (s : State) :
    ResKeeps s (writeTripleAt r addr v s) :=
  resKeeps_ite (resKeeps_error s _) <| resKeeps_andThen (resKeeps_writeByteAt r addr _ s) fun _ t =>
    resKeeps_andThen (resKeeps_writeByteAt r _ _ t) fun _ u => resKeeps_writeByteAt r _ _ u

theorem resKeeps_readByte (o : Operand) (s : State) : ResKeeps s (readByte o s) := resKeeps_readByteAt _ _ s

theorem resKeeps_readWord (o : Operand) (s : State) : ResKeeps s (readWord o s) := resKeeps_readWordAt _ _ s

theorem resKeeps_wordOperand (o : Operand) (s : State) : ResKeeps s (wordOperand o s) := by
  have readAs (f : Byte → Word) : ResKeeps s (Res.andThen (readByte o s) fun v t => .ok (f v, t)) :=
    resKeeps_andThen (resKeeps_readByte o s) fun _ t => resKeeps_ok _ (.refl t)
  unfold wordOperand
  cases s.wordK with
  | none => exact readAs _
  | word => exact resKeeps_ite (resKeeps_ok _ (.refl s)) (resKeeps_error s _)
  | wordx => exact readAs _

theorem resKeeps_tripleOperand (o : Operand) (s : State) : ResKeeps s (tripleOperand o s) := by
  have readAs (addr : Triple) (f : Byte → Triple) :
      ResKeeps s (Res.andThen (readByteAt (restricted o) addr s) fun v t => .ok (f v, t)) :=
    resKeeps_andThen (resKeeps_readByteAt _ addr s) fun _ t => resKeeps_ok _ (.refl t)
  unfold tripleOperand
  cases s.wordK with
  | none => exact readAs _ _
  | word => exact resKeeps_ite (resKeeps_ite (resKeeps_error s _) (readAs _ _)) (resKeeps_error s _)
  | wordx => exact readAs _ _

/-! ## Families of instructions -/

theorem outKeeps_accWord (o : Operand) (f : Word → Alu 16) (s : State) : OutKeeps s (accWord o f s) :=
  outKeeps_finish (resKeeps_wordOperand o s) fun _ _ => keeps_of_guarded_eq rfl

theorem outKeeps_rmwByte (o : Operand) (f : Byte → Alu 8) (s : State) : OutKeeps s (rmwByte o f s) :=
  outKeeps_finish
    (resKeeps_andThen (resKeeps_readByte o s) fun _ t =>
      resKeeps_andThen (resKeeps_writeByteAt _ _ _ t) fun _ u => resKeeps_ok _ (.refl u))
    fun _ _ => keeps_of_guarded_eq rfl

theorem outKeeps_rmwWord (o : Operand) (f : Word → Alu 16) (s : State) : OutKeeps s (rmwWord o f s) :=
  outKeeps_finish
    (resKeeps_andThen (resKeeps_readWord o s) fun _ t =>
      resKeeps_andThen (resKeeps_writeWordAt _ _ _ t) fun _ u => resKeeps_ok _ (.refl u))
    fun _ _ => keeps_of_guarded_eq rfl

/-- An instruction that reads a byte into a register. -/
theorem outKeeps_loadByte {o : Operand} {s : State} {k : Byte → State → State} (h : ∀ v t, guarded (k v t) = guarded t) :
    OutKeeps s (Res.finish (readByte o s) k) :=
  outKeeps_finish (resKeeps_readByte o s) fun v t => keeps_of_guarded_eq (h v t)

/-- An instruction that reads a word into a register or WORDP. -/
theorem outKeeps_loadWord {o : Operand} {s : State} {k : Word → State → State} (h : ∀ v t, guarded (k v t) = guarded t) :
    OutKeeps s (Res.finish (readWord o s) k) :=
  outKeeps_finish (resKeeps_readWord o s) fun v t => keeps_of_guarded_eq (h v t)

theorem outKeeps_storeByte (o : Operand) (v : Byte) (s : State) :
    OutKeeps s (Res.finish (writeByte o v s) fun _ t => t) :=
  outKeeps_finish (resKeeps_writeByteAt _ _ v s) fun _ => .refl

theorem outKeeps_storeWord (o : Operand) (v : Word) (s : State) :
    OutKeeps s (Res.finish (writeWord o v s) fun _ t => t) :=
  outKeeps_finish (resKeeps_writeWordAt _ _ v s) fun _ => .refl

/-- A change of other fields before an instruction, as a port's answer taken, does not matter. -/
theorem OutKeeps.of_guarded_eq {s t : State} {out : Out} (h : OutKeeps t out) (e : guarded t = guarded s) :
    OutKeeps s out := fun u hu => (keeps_of_guarded_eq e).trans (h u hu)

theorem outKeeps_withImm (n : Byte) {f : Word → State → State} (s : State) (h : ∀ v, guarded (f v s) = guarded s) :
    OutKeeps s (withImm n f s) := by
  unfold withImm
  split
  · exact outKeeps_fault s _
  · exact outKeeps_guarded (h _)

/-- Loading the flags leaves UF clear without USER_MODE (R33). -/
theorem keeps_loadFlags (v : Byte) (s : State) : Keeps s (loadFlags v s) :=
  ⟨rfl, fun w => { w with
    uf_absent := fun absent => by
      have absent : s.cfg.userMode = false := absent
      simp [absent, w.uf_absent] }⟩

/-! ## Instructions that write a field the invariant speaks of -/

theorem outKeeps_usermode (k : BitVec 1) (s : State) : OutKeeps s (execUsermode k s) := by
  refine outKeeps_ite (outKeeps_next ⟨rfl, fun w => { w with uf_absent := fun absent => ?_ }⟩) (outKeeps_fault s _)
  have absent : s.cfg.userMode = false := absent
  simp [absent, w.uf_absent]

theorem outKeeps_clear (k : BitVec 4) (s : State) : OutKeeps s (execClear k s) := by
  refine outKeeps_next ⟨rfl, fun w => { w with ae_absent := fun absent => ?_ }⟩
  have absent : s.cfg.userMode = false := absent
  simp [w.ae_absent absent]

theorem outKeeps_num (n : Byte) (s : State) : OutKeeps s (execNum n s) := by
  unfold execNum
  cases s.numN with
  | zero => exact outKeeps_guarded rfl
  | one => exact outKeeps_guarded rfl
  | two => exact outKeeps_fault s _

theorem outKeeps_setflag (o : Operand) (s : State) : OutKeeps s (execSetflag o s) := by
  unfold execSetflag
  split
  · exact outKeeps_fault s _
  · next v t h =>
    refine outKeeps_ite (outKeeps_fault s _) (outKeeps_next ?_)
    exact (resKeeps_readByte o s v t h).trans (keeps_loadFlags v t)

theorem outKeeps_reti (m : Fin 126) (s : State) : OutKeeps s (execReti m s) :=
  outKeeps_ite
    (outKeeps_finish (resKeeps_readByte _ s) fun v t => (keeps_loadFlags v t).trans (keeps_of_guarded_eq rfl))
    (outKeeps_fault s _)

theorem outKeeps_mulx (s : State) : OutKeeps s (execMulx s) :=
  outKeeps_ite
    (outKeeps_finish
      (resKeeps_andThen (resKeeps_readWord _ s) fun _ t =>
        resKeeps_andThen (resKeeps_writeWordAt _ _ _ t) fun _ u => resKeeps_ok _ (.refl u))
      fun _ _ => keeps_of_guarded_eq rfl)
    (outKeeps_fault s _)

theorem outKeeps_mov (o : Operand) (s : State) : OutKeeps s (execMov o s) :=
  outKeeps_finish (resKeeps_andThen (resKeeps_readByte o s) fun v t => resKeeps_writeByteAt _ _ v t) fun _ => .refl

theorem outKeeps_movW (o : Operand) (s : State) : OutKeeps s (execMovW o s) :=
  outKeeps_finish (resKeeps_andThen (resKeeps_readWord o s) fun v t => resKeeps_writeWordAt _ _ v t) fun _ => .refl

theorem outKeeps_hardMacro (e : Bool) (op : BitVec 6) (g : Byte) (s : State) : OutKeeps s (execHardMacro e op g s) := by
  refine outKeeps_ite (outKeeps_fault s _) <| outKeeps_ite (outKeeps_fault s _) ?_
  intro t ht
  obtain ⟨u, v, written, rfl⟩ := Res.finish_next ht
  have keeps := resKeeps_writeByteAt _ _ g s u v written
  have cfg : v.cfg = s.cfg := keeps.cfg
  have entry : Keeps v (setMC (macroEntry op s) v) := keeps_setMC fun w => by
    have e : macroEntry op s = macroEntry op v := by rw [macroEntry, macroEntry, cfg]
    rw [e]; exact macroEntry_even op w
  exact (keeps.trans entry).trans (keeps_of_guarded_eq rfl)

/-! ## Every instruction -/

/-- Whatever the instruction, it keeps the parameters and the invariant. -/
theorem outKeeps_exec (i : Instr) (s : State) : OutKeeps s (exec i s) := by
  cases i with
  | nop | getpc | getmc | addABXC | nibble | addABC | wshl | clc | offset k | cpuinforst | cpuinfoinc | cpuinfoget
  | ldAB | ldBA | swapAB | ldCA | ldABCA | ldBACA | ldABBACA | ldAC | ldBC | ldACBC | ldCB | ldACCB | swapBC | ldACBCCB
  | incB | incX | incBX | incBXm | dincB | dincX | dincBX | dincBXm | decB | decX | decBX | decBXp | ddecB | ddecX | ddecBX
  | ddecBXp | byteswap r | ldXAB | ldXAC | disable | enable | getstat | opmsb | inputa | outputb | inout
  | andAn n | xorAn n | orAn n | ldAn n | ldBn n | ldCn n | ldXn n | nLdXnn n | ldT n | addAn n | addcAn n
  | andAC | xorAC | orAC | addAC | addcAC | subAC | subcAC => exact outKeeps_guarded rfl
  | nAndAnn n => exact (outKeeps_withImm n s fun _ => rfl : OutKeeps s (execNAndAnn n s))
  | nXorAnn n => exact (outKeeps_withImm n s fun _ => rfl : OutKeeps s (execNXorAnn n s))
  | nOrAnn n => exact (outKeeps_withImm n s fun _ => rfl : OutKeeps s (execNOrAnn n s))
  | nLdAnn n => exact (outKeeps_withImm n s fun _ => rfl : OutKeeps s (execNLdAnn n s))
  | nLdBnn n => exact (outKeeps_withImm n s fun _ => rfl : OutKeeps s (execNLdBnn n s))
  | nLdCnn n => exact (outKeeps_withImm n s fun _ => rfl : OutKeeps s (execNLdCnn n s))
  | nAddAnn n => exact (outKeeps_withImm n s fun _ => rfl : OutKeeps s (execNAddAnn n s))
  | nAddcAnn n => exact (outKeeps_withImm n s fun _ => rfl : OutKeeps s (execNAddcAnn n s))
  | ldA o | ldB o | ldC o | ldX o | out o | andA o | xorA o | orA o | addA o | addcA o | subA o | subcA o =>
    exact outKeeps_loadByte fun _ _ => rfl
  | ldWA o | ldWB o | ldWC o | word o | wordx o => exact outKeeps_loadWord fun _ _ => rfl
  | ldWX o => exact outKeeps_ite (outKeeps_loadWord fun _ _ => rfl) (outKeeps_fault s _)
  | wLdX o => exact outKeeps_finish (resKeeps_tripleOperand o s) fun _ _ => keeps_of_guarded_eq rfl
  | wAndA o | wXorA o | wOrA o | wAddA o | wAddcA o | wSubA o | wSubcA o => exact outKeeps_accWord o _ s
  | jrN n => exact outKeeps_next (keeps_setXC (relTarget_even n))
  | jrB => exact outKeeps_next (keeps_setXC relTargetB_even)
  | brN n => exact outKeeps_next (keeps_linkTo (relTarget_even n))
  | brB => exact outKeeps_next (keeps_linkTo relTargetB_even)
  | jrc0N n | jrc1N n | jrz0N n | jrz1N n => exact outKeeps_next (keeps_jumpIf (relTarget_even n))
  | jrc0B | jrc1B | jrz0B | jrz1B => exact outKeeps_next (keeps_jumpIf relTargetB_even)
  | brc0N n | brc1N n | brz0N n | brz1N n => exact outKeeps_next (keeps_linkIf (relTarget_even n))
  | brc0B | brc1B | brz0B | brz1B => exact outKeeps_next (keeps_linkIf relTargetB_even)
  | jmpM m => exact outKeeps_next (keeps_setXC fun _ => absTargetM_even m)
  | balM m => exact outKeeps_next (keeps_linkTo fun _ => absTargetM_even m)
  | jmpAB | jmpMB m => exact outKeeps_next (keeps_setXC fun _ => shiftLeft_one_even _)
  | balAB | balMB m => exact outKeeps_next (keeps_linkTo fun _ => shiftLeft_one_even _)
  | jmpc0 | jmpc1 | jmpz0 | jmpz1 => exact outKeeps_next (keeps_jumpIf fun _ => shiftLeft_one_even _)
  | balc0 | balc1 | balz0 | balz1 => exact outKeeps_next (keeps_linkIf fun _ => shiftLeft_one_even _)
  | loopinc n | loopincW n | loopdec n | loopdecW n => exact outKeeps_next (keeps_loopStep n _ s)
  | setpc => exact outKeeps_next (keeps_setPC fun _ => shiftLeft_one_even _)
  | setmc => exact outKeeps_next (keeps_setMC fun _ => shiftLeft_one_even _)
  | int k => exact outKeeps_ite (outKeeps_fault s _) (outKeeps_next (keeps_enterInterrupt k s))
  | mul => exact outKeeps_ite (outKeeps_guarded rfl) (outKeeps_fault s _)
  | mulx => exact outKeeps_mulx s
  | usermode k => exact outKeeps_usermode k s
  | clear k => exact outKeeps_clear k s
  | num n => exact outKeeps_num n s
  | setflag o => exact outKeeps_setflag o s
  | reti m => exact outKeeps_reti m s
  | stA o | stB o | stC o | stX o | zero o | getflag o => exact outKeeps_storeByte o _ s
  | stWA o | stWB o | stWC o | zeroW o => exact outKeeps_storeWord o _ s
  | stTX o => exact outKeeps_finish (resKeeps_writeTripleAt _ _ _ s) fun _ => .refl
  | inp o => exact (outKeeps_storeByte o _ _).of_guarded_eq rfl
  | inpW o => exact (outKeeps_storeWord o _ _).of_guarded_eq rfl
  | dincM o | ddecM o | shl o | shlc o | shr o | shrc o | andM o | xorM o | orM o | incM o | inccM o | addM o | addcM o
  | decM o | decKeep m | deccM o | subM o | subcM o => exact outKeeps_rmwByte _ _ s
  | dincWM o | ddecWM o | shlW o | shlcW o | shrW o | shrcW o | andWM o | xorWM o | orWM o | incWM o | inccWM o | addWM o
  | addcWM o | decWM o | decWKeep | deccWM o | subWM o | subcWM o => exact outKeeps_rmwWord _ _ s
  | mov o => exact outKeeps_mov o s
  | movW o => exact outKeeps_movW o s
  | hardMacro e op g => exact outKeeps_hardMacro e op g s
  | getflagW o | reservedG e op g | reservedOpmsb op g | unusedOp e op g => exact outKeeps_fault s _

/-! ## What a step can do -/

theorem guarded_takeRequests (s : State) : guarded (takeRequests s) = guarded s := by simp [guarded]

/-- An instruction is one word or two. -/
theorem BytesAtCounter.length_even {s : State} {bytes : List Byte} (h : BytesAtCounter s bytes) :
    bytes.length % 2 = 0 := by
  obtain ⟨_, ⟨_, rfl⟩ | ⟨_, _, rfl⟩⟩ := h <;> simp

/-- An instruction that goes on has run, and retired. -/
theorem runInstr_eq_next {i : Instr} {ends : Bool} {s t : State} (h : runInstr i ends s = .next t) :
    ∃ u, exec i s = .next u ∧ t = retire i ends u := by
  unfold runInstr at h
  split at h
  · cases h
  · split at h
    · cases h
    · split at h <;> cases h
      exact ⟨_, ‹_›, rfl⟩

/-- A step that goes on has taken an interrupt, or run an instruction of whole words and retired it (R101). -/
theorem step_eq_next {s t : State} (h : step s = .next t) :
    (∃ k, takenCause (takeRequests s) = some k ∧ t = enterInterrupt k (takeRequests s)) ∨
    ∃ (i : Instr) (n : Nat) (ends : Bool) (u : State),
      n % 2 = 0 ∧ exec i (advance n (takeRequests s)) = .next u ∧ t = retire i ends u := by
  unfold step cycle at h
  simp only at h
  split at h
  · next k taken => cases h; exact .inl ⟨k, taken, rfl⟩
  · unfold runNext at h
    split at h
    · cases h
    · next bytes fetched =>
      split at h
      · cases h
      · obtain ⟨u, ran, rfl⟩ := runInstr_eq_next h
        exact .inr ⟨_, _, _, u, (fetchBytes_eq_ok.mp fetched).length_even, ran, rfl⟩

/-- Every step keeps the parameters, and the invariant apart from the prefixes. -/
theorem step_keeps {s t : State} (h : step s = .next t) : Keeps s t := by
  have requests : Keeps s (takeRequests s) := keeps_of_guarded_eq (guarded_takeRequests s)
  obtain ⟨k, _, rfl⟩ | ⟨i, n, ends, u, even, ran, rfl⟩ := step_eq_next h
  · exact requests.trans (keeps_enterInterrupt k _)
  · have advanced := requests.trans (keeps_advance _ even)
    have executed := advanced.trans (outKeeps_exec i _ u ran)
    exact executed.trans (keeps_of_guarded_eq rfl)

/-! ## The prefixes -/

/-- An instruction is at most one of the prefixes that keep themselves pending (R101 step 7). -/
theorem keeps_one_prefix (i : Instr) : (keepsNum i).toNat + (keepsWord i).toNat + (keepsOpmsb i).toNat ≤ 1 := by
  cases i <;> simp [keepsNum, keepsWord, keepsOpmsb]

/-- After an instruction at most one of the prefixes is pending, its own. -/
theorem prefixCount_retire (i : Instr) (ends : Bool) (s : State) : prefixCount (retire i ends s) ≤ 1 := by
  have one := keeps_one_prefix i
  have num : ((if keepsNum i then s.numN else .zero) != .zero).toNat ≤ (keepsNum i).toNat := by
    cases keepsNum i <;> simp [Bool.toNat_le]
  have word : ((if keepsWord i then s.wordK else .none) != .none).toNat ≤ (keepsWord i).toNat := by
    cases keepsWord i <;> simp [Bool.toNat_le]
  have opmsb : (keepsOpmsb i && s.opmsbP).toNat ≤ (keepsOpmsb i).toNat := by
    cases keepsOpmsb i <;> simp [Bool.toNat_le]
  simp only [prefixCount, retire, clearPrefixes, Bool.toNat_false]
  omega

/-- After a step at most one of the prefixes is pending; taking an interrupt leaves them as they are. -/
theorem prefixCount_step {s t : State} (h : step s = .next t) (one : prefixCount s ≤ 1) : prefixCount t ≤ 1 := by
  obtain ⟨k, _, rfl⟩ | ⟨i, n, ends, u, _, _, rfl⟩ := step_eq_next h
  · simpa [prefixCount] using one
  · exact prefixCount_retire i ends u

/-! ## The statements -/

/-- Settles O9: the prefixes by `prefixCount_step`, every other clause by `step_keeps`. -/
theorem stepKeepsInvariant : Obligations.StepKeepsInvariant := by
  intro s t inv h
  rw [inv_iff] at inv ⊢
  exact ⟨(step_keeps h).inv inv.1, prefixCount_step h inv.2⟩

/-- Settles O10: the parameters are what `Keeps` says is left. -/
theorem stepKeepsParameters : Obligations.StepKeepsParameters := fun _ _ h => (step_keeps h).cfg

/-- Settles O8: every clause evaluates at the state after reset. -/
theorem resetMeetsInvariant : Obligations.ResetMeetsInvariant := by
  constructor <;> decide

end Sys2Proof.Machine
end

section
/-! PROOFS. The flag rules as integers, and the instructions that read a byte of memory. -/

namespace Sys2Proof.Machine

/-! ## Flags -/

/-- ZF of a result says that the result is the number zero (R13, R14, R15). -/
theorem isZero_eq {w : Nat} (v : BitVec w) : isZero v = decide (v.toNat = 0) := by
  rw [isZero, Bool.eq_iff_iff, beq_iff_eq, decide_eq_true_iff]
  exact BitVec.toNat_eq

/-- A carry widened to `w` bits. -/
theorem toNat_carry (w : Nat) (c : Bool) : ((BitVec.ofBool c).setWidth w).toNat = c.toNat % 2 ^ w := by
  rw [BitVec.toNat_setWidth, BitVec.toNat_ofBool]

/-- Addition with carry is addition cut to the width (R13). -/
theorem addC_val_toNat {w : Nat} (u v : BitVec w) (c : Bool) :
    (addC u v c).val.toNat = (u.toNat + v.toNat + c.toNat) % 2 ^ w := by
  rw [addC, BitVec.toNat_add, BitVec.toNat_add, toNat_carry, ← Nat.add_mod]

/-- Subtraction is the difference as an integer modulo the width. -/
theorem toNat_sub_int {w : Nat} (u v : BitVec w) :
    ((u - v).toNat : Int) = ((u.toNat : Int) - v.toNat) % (2 ^ w : Nat) := by
  have lt := v.isLt
  rw [BitVec.toNat_sub, Int.natCast_emod, Int.natCast_add, Int.natCast_sub lt.le]
  rw [show ((2 ^ w : Nat) : Int) - v.toNat + u.toNat = (u.toNat - v.toNat) + (2 ^ w : Nat) by ring, Int.add_emod_right]

/-- Subtraction with borrow is the difference as an integer modulo the width (R14, D8). -/
theorem subB_val_toNat {w : Nat} (u v : BitVec w) (c : Bool) :
    ((subB u v c).val.toNat : Int) = ((u.toNat : Int) - v.toNat - c.toNat) % (2 ^ w : Nat) := by
  rw [subB, toNat_sub_int, toNat_sub_int, toNat_carry, Int.natCast_emod, ← Int.sub_emod]

/-- Settles O28: the values by `addC_val_toNat` and `subB_val_toNat`, ZF by `isZero_eq`; the carry and the borrow are the
model's own comparisons. -/
theorem arithmeticFlags : Obligations.ArithmeticFlags := by
  intro w u v c
  have addZero : (addC u v c).zf = some (decide ((u.toNat + v.toNat + c.toNat) % 2 ^ w = 0)) := by
    rw [← addC_val_toNat, ← isZero_eq]; rfl
  exact ⟨addC_val_toNat u v c, rfl, addZero, subB_val_toNat u v c, rfl, congrArg some (isZero_eq _)⟩

/-- Settles O29: ZF by `isZero_eq`. -/
theorem logicFlags : Obligations.LogicFlags := fun _ r =>
  ⟨rfl, rfl, congrArg some (isZero_eq r), rfl, rfl, congrArg some (isZero_eq (r - 1))⟩

/-! ## A byte of memory read -/

/-- Settles O34: each byte load is the read of its operand, then a register. -/
theorem byteLoads : Obligations.ByteLoads := fun _ _ =>
  ⟨readsByte_readByte rfl, readsByte_readByte rfl, readsByte_readByte rfl, readsByte_readByte rfl⟩

/-- An accumulator operation on a byte of memory reads the byte, then writes A and the flags. -/
theorem readsByte_accByte {o : Operand} {s : State} {out : Out} {f : Word → Alu 16} (h : out = accByte o f s) :
    ReadsByte o s out fun v t => withAcc (f (v.setWidth 16)) t :=
  readsByte_readByte h

/-- Settles O36: each of the operations is its function of A and the byte. -/
theorem accumulatorByteOperations : Obligations.AccumulatorByteOperations := fun _ s =>
  ⟨readsByte_accByte (f := fun v => logic (s.a &&& v)) rfl,
    readsByte_accByte (f := fun v => logic (s.a ^^^ v)) rfl,
    readsByte_accByte (f := fun v => logic (s.a ||| v)) rfl,
    readsByte_accByte (f := fun v => addC s.a v false) rfl,
    readsByte_accByte (f := fun v => addC s.a v s.cf) rfl,
    readsByte_accByte (f := fun v => subB s.a v false) rfl,
    readsByte_accByte (f := fun v => subB s.a v s.cf) rfl⟩

end Sys2Proof.Machine
end

section
/-! PROOFS. Frames: what the instructions that read, store, and read-modify-write leave unchanged, each family from one lemma on
its shared operation. -/

namespace Sys2Proof.Machine

/-! ## Instructions that read -/

/-- An operation that, where it goes on, has changed AE and the count of free values alone. -/
def ReadsOnly {α : Type} (s : State) (r : Res α) : Prop :=
  ∀ v t, r = .ok (v, t) → t = { s with ae := t.ae, draws := t.draws }

theorem readsOnly_ok {α : Type} (s : State) (v : α) : ReadsOnly s (.ok (v, s)) := by
  rintro _ _ ⟨⟩; rfl

theorem readsOnly_error {α : Type} (s : State) (f : Fault) : ReadsOnly s (.error f : Res α) := by
  intro v t h; cases h

theorem readsOnly_ite {α : Type} {s : State} {p : Prop} [Decidable p] {a b : Res α} (ha : ReadsOnly s a)
    (hb : ReadsOnly s b) : ReadsOnly s (if p then a else b) := by split_ifs <;> assumption

theorem readsOnly_readByteAt (r : Bool) (addr : Triple) (s : State) : ReadsOnly s (readByteAt r addr s) :=
  fun _ _ => readByteAt_frame

theorem readsOnly_readWordAt (r : Bool) (addr : Triple) (s : State) : ReadsOnly s (readWordAt r addr s) :=
  fun _ _ => readWordAt_frame

/-- A read whose value is then computed with. -/
theorem readsOnly_map {α β : Type} {s : State} {r : Res α} (h : ReadsOnly s r) (f : α → β) :
    ReadsOnly s (Res.andThen r fun v t => .ok (f v, t)) := by
  intro v t ht
  obtain ⟨w, u, hr, hu⟩ := Res.andThen_eq_ok ht
  cases hu
  exact h w t hr

theorem readsOnly_wordOperand (o : Operand) (s : State) : ReadsOnly s (wordOperand o s) := by
  have readAs (f : Byte → Word) := readsOnly_map (readsOnly_readByteAt (restricted o) (ea o s) s) f
  unfold wordOperand
  cases s.wordK with
  | none => exact readAs _
  | word => exact readsOnly_ite (readsOnly_ok s _) (readsOnly_error s _)
  | wordx => exact readAs _

theorem readsOnly_tripleOperand (o : Operand) (s : State) : ReadsOnly s (tripleOperand o s) := by
  have readAs (addr : Triple) (f : Byte → Triple) := readsOnly_map (readsOnly_readByteAt (restricted o) addr s) f
  unfold tripleOperand
  cases s.wordK with
  | none => exact readAs _ _
  | word => exact readsOnly_ite (readsOnly_ite (readsOnly_error s _) (readAs _ _)) (readsOnly_error s _)
  | wordx => exact readAs _ _

/-- An instruction that ends with a read comes out as `k` makes of the value read and a state with another AE and count. -/
theorem finish_readsOnly {α : Type} {s t : State} {r : Res α} {k : α → State → State} (reads : ReadsOnly s r)
    (h : Res.finish r k = .next t) : ∃ v b n, t = k v { s with ae := b, draws := n } := by
  obtain ⟨v, u, hr, rfl⟩ := Res.finish_next h
  exact ⟨v, u.ae, u.draws, by rw [← reads v u hr]⟩

/-- `LD.W X` that goes on is built, and is a word read (R239). -/
theorem execLdWX_eq_next {o : Operand} {s t : State} (h : execLdWX o s = .next t) :
    Res.finish (readWord o s) (fun v u => { u with x := v.setWidth 24 }) = .next t := by
  unfold execLdWX at h
  split_ifs at h
  exact h

/-- Settles O55: each of the instructions is a read that leaves all but AE and the count, then the registers of its row. -/
theorem readingFrames : Obligations.ReadingFrames := by
  intro o s t
  have byte := readsOnly_readByteAt (restricted o) (ea o s) s
  have word := readsOnly_readWordAt (restricted o) (ea o s) s
  have operand := readsOnly_wordOperand o s
  have triple := readsOnly_tripleOperand o s
  simp only [List.forall_mem_cons, List.not_mem_nil, false_imp_iff, implies_true, and_true]
  refine ⟨⟨?ldA, ?ldWA⟩, ⟨?ldB, ?ldWB⟩, ⟨?ldC, ?ldWC⟩, ⟨?ldX, ?wLdX, ?ldWX⟩, ⟨?andA, ?xorA, ?orA, ?wAndA, ?wXorA, ?wOrA⟩,
    ?addA, ?addcA, ?subA, ?subcA, ?wAddA, ?wAddcA, ?wSubA, ?wSubcA⟩ <;> intro h
  case ldA | ldB | ldC | ldX | andA | xorA | orA | addA | addcA | subA | subcA =>
    obtain ⟨v, b, n, rfl⟩ := finish_readsOnly byte h
    rfl
  case ldWA | ldWB | ldWC =>
    obtain ⟨v, b, n, rfl⟩ := finish_readsOnly word h
    rfl
  case ldWX =>
    obtain ⟨v, b, n, rfl⟩ := finish_readsOnly word (execLdWX_eq_next h)
    rfl
  case wLdX =>
    obtain ⟨v, b, n, rfl⟩ := finish_readsOnly triple h
    rfl
  case wAndA | wXorA | wOrA | wAddA | wAddcA | wSubA | wSubcA =>
    obtain ⟨v, b, n, rfl⟩ := finish_readsOnly operand h
    rfl

/-! ## Instructions that store -/

/-- The frame of a store of one byte. -/
theorem storeByte_frame {o : Operand} {v : Byte} {s t : State} (h : Res.finish (writeByte o v s) (fun _ u => u) = .next t) :
    t = { s with mem := t.mem, ae := t.ae } ∧ MemoryKeptOutside [physical s (ea o s)] s t := by
  obtain ⟨_, u, written, rfl⟩ := Res.finish_next h
  exact writeByteAt_frame written

/-- The frame of a store of a word. -/
theorem storeWord_frame {o : Operand} {v : Word} {s t : State} (h : Res.finish (writeWord o v s) (fun _ u => u) = .next t) :
    t = { s with mem := t.mem, ae := t.ae } ∧
      MemoryKeptOutside [physical s (ea o s), physical s (ea o s + 1)] s t := by
  obtain ⟨_, u, written, rfl⟩ := Res.finish_next h
  exact writeWordAt_frame written

/-- The frame of a store of a triple. -/
theorem storeTriple_frame {o : Operand} {v : Triple} {s t : State}
    (h : Res.finish (writeTriple o v s) (fun _ u => u) = .next t) :
    t = { s with mem := t.mem, ae := t.ae } ∧
      MemoryKeptOutside [physical s (ea o s), physical s (ea o s + 1), physical s (ea o s + 2)] s t := by
  obtain ⟨_, u, written, rfl⟩ := Res.finish_next h
  exact writeTripleAt_frame written

/-- Settles O56: each store is the write of one byte, word or triple at its operand. -/
theorem storeFrames : Obligations.StoreFrames := by
  intro o s t
  simp only [List.forall_mem_cons, List.not_mem_nil, false_imp_iff, implies_true, and_true]
  exact ⟨⟨storeByte_frame, storeByte_frame, storeByte_frame, storeByte_frame, storeByte_frame, storeByte_frame⟩,
    ⟨storeWord_frame, storeWord_frame, storeWord_frame, storeWord_frame⟩, storeTriple_frame⟩

/-! ## Instructions that read, modify and write -/

/-- The state `t` is `s` with the flags of some result of `f`, some memory that differs at the addresses `ps` alone, and
another AE and count of free values. -/
def Modifies {w : Nat} (ps : List Nat) (f : BitVec w → Alu w) (s t : State) : Prop :=
  MemoryKeptOutside ps s t ∧
  ∃ v m b n, t = setFlags (f v).cf (f v).zf { s with mem := m, ae := b, draws := n }

/-- A read-modify-write of a byte that goes on has read the byte, written the result back, and written the flags (R340). -/
theorem rmwByte_eq_next {o : Operand} {f : Byte → Alu 8} {s t : State} (h : rmwByte o f s = .next t) :
    ∃ v s1 u s2, readByte o s = .ok (v, s1) ∧ writeByte o (f v).val s1 = .ok (u, s2) ∧ t = setFlags (f v).cf (f v).zf s2 := by
  obtain ⟨r, s3, done, rfl⟩ := Res.finish_next h
  obtain ⟨v, s1, read, done⟩ := Res.andThen_eq_ok done
  obtain ⟨u, s2, written, done⟩ := Res.andThen_eq_ok done
  cases done
  exact ⟨v, s1, u, _, read, written, rfl⟩

theorem rmwByte_modifies {o : Operand} {f : Byte → Alu 8} {s t : State} (h : rmwByte o f s = .next t) :
    Modifies [physical s (ea o s)] f s t := by
  obtain ⟨v, s1, _, s2, read, written, rfl⟩ := rmwByte_eq_next h
  have frame := readByteAt_frame read
  obtain ⟨frame', kept⟩ := writeByteAt_frame written
  rw [frame] at kept
  exact ⟨kept, v, s2.mem, s2.ae, s1.draws, by rw [frame', frame]⟩

/-- A read-modify-write of a word that goes on has read the word, written the result back, and written the flags (R340). -/
theorem rmwWord_eq_next {o : Operand} {f : Word → Alu 16} {s t : State} (h : rmwWord o f s = .next t) :
    ∃ v s1 u s2, readWord o s = .ok (v, s1) ∧ writeWord o (f v).val s1 = .ok (u, s2) ∧ t = setFlags (f v).cf (f v).zf s2 := by
  obtain ⟨r, s3, done, rfl⟩ := Res.finish_next h
  obtain ⟨v, s1, read, done⟩ := Res.andThen_eq_ok done
  obtain ⟨u, s2, written, done⟩ := Res.andThen_eq_ok done
  cases done
  exact ⟨v, s1, u, _, read, written, rfl⟩

theorem rmwWord_modifies {o : Operand} {f : Word → Alu 16} {s t : State} (h : rmwWord o f s = .next t) :
    Modifies [physical s (ea o s), physical s (ea o s + 1)] f s t := by
  obtain ⟨v, s1, _, s2, read, written, rfl⟩ := rmwWord_eq_next h
  have frame := readWordAt_frame read
  obtain ⟨frame', kept⟩ := writeWordAt_frame written
  rw [frame] at kept
  exact ⟨kept, v, s2.mem, s2.ae, s1.draws, by rw [frame', frame]⟩

section Modifies

variable {w : Nat} {ps : List Nat} {f : BitVec w → Alu w} {s t : State} (h : Modifies ps f s t)
include h

theorem Modifies.frame :
    t = { s with mem := t.mem, cf := t.cf, zf := t.zf, ae := t.ae, draws := t.draws } ∧ MemoryKeptOutside ps s t := by
  obtain ⟨kept, v, m, b, n, rfl⟩ := h
  exact ⟨rfl, kept⟩

/-- Results without ZF leave ZF. -/
theorem Modifies.frame_keepsZF (noZF : ∀ v, (f v).zf = none) :
    t = { s with mem := t.mem, cf := t.cf, ae := t.ae, draws := t.draws } ∧ MemoryKeptOutside ps s t := by
  obtain ⟨kept, v, m, b, n, rfl⟩ := h
  rw [noZF v] at kept ⊢
  exact ⟨rfl, kept⟩

/-- Results without CF leave CF. -/
theorem Modifies.frame_keepsCF (noCF : ∀ v, (f v).cf = none) :
    t = { s with mem := t.mem, zf := t.zf, ae := t.ae, draws := t.draws } ∧ MemoryKeptOutside ps s t := by
  obtain ⟨kept, v, m, b, n, rfl⟩ := h
  rw [noCF v] at kept ⊢
  exact ⟨rfl, kept⟩

/-- Results without CF, of an instruction that has no access refused. -/
theorem Modifies.frame_keepsCF_direct (noCF : ∀ v, (f v).cf = none) (plain : t.ae = s.ae ∧ t.draws = s.draws) :
    t = { s with mem := t.mem, zf := t.zf } ∧ MemoryKeptOutside ps s t := by
  obtain ⟨frame, kept⟩ := h.frame_keepsCF noCF
  rw [plain.1, plain.2] at frame
  exact ⟨frame, kept⟩

end Modifies

/-- The user mode refuses no direct word, so reading one leaves everything (R70). -/
theorem readWordAt_direct {addr : Triple} {s t : State} {v : Word} (h : readWordAt false addr s = .ok (v, t)) : t = s := by
  unfold readWordAt at h
  split_ifs at h
  obtain ⟨_, s1, low, h⟩ := Res.andThen_eq_ok h
  obtain ⟨_, s2, high, h⟩ := Res.andThen_eq_ok h
  cases h
  rw [readByteAt_direct high, readByteAt_direct low]

/-- The user mode refuses no direct word, so writing one leaves AE (R70). -/
theorem writeWordAt_direct {addr : Triple} {v : Word} {s t : State} {u : Unit}
    (h : writeWordAt false addr v s = .ok (u, t)) : t.ae = s.ae := by
  unfold writeWordAt at h
  split_ifs at h
  obtain ⟨_, s1, low, high⟩ := Res.andThen_eq_ok h
  rw [writeByteAt_direct high, writeByteAt_direct low]

theorem rmwByte_direct {m : Fin 126} {f : Byte → Alu 8} {s t : State} (h : rmwByte (.dir m) f s = .next t) :
    t.ae = s.ae ∧ t.draws = s.draws := by
  obtain ⟨v, s1, _, s2, read, written, rfl⟩ := rmwByte_eq_next h
  obtain rfl : s1 = s := readByteAt_direct read
  have ae : s2.ae = s1.ae := writeByteAt_direct written
  have draws : s2.draws = s1.draws := by rw [(writeByteAt_frame written).1]
  exact ⟨ae, draws⟩

theorem rmwWord_direct {m : Fin 126} {f : Word → Alu 16} {s t : State} (h : rmwWord (.dir m) f s = .next t) :
    t.ae = s.ae ∧ t.draws = s.draws := by
  obtain ⟨v, s1, _, s2, read, written, rfl⟩ := rmwWord_eq_next h
  obtain rfl : s1 = s := readWordAt_direct read
  have ae : s2.ae = s1.ae := writeWordAt_direct written
  have draws : s2.draws = s1.draws := by rw [(writeWordAt_frame written).1]
  exact ⟨ae, draws⟩

/-- Settles O57: each of the instructions is `rmwByte` at its operand; the shifts compute no ZF, the logic and DEC of 124 and
125 no CF, and a direct operand is not refused. -/
theorem modifyByteFrames : Obligations.ModifyByteFrames := by
  intro o s t
  have any {f : Byte → Alu 8} (h : rmwByte o f s = .next t) := (rmwByte_modifies h).frame
  simp only [List.forall_mem_cons, List.not_mem_nil, false_imp_iff, implies_true, and_true]
  refine ⟨⟨any, any, any, any, any, any, any, any, any, any⟩, ⟨?shl, ?shlc, ?shr, ?shrc⟩, ⟨?and, ?xor, ?or⟩, ?keepsCF⟩
  case shl | shlc | shr | shrc => exact fun h => (rmwByte_modifies h).frame_keepsZF fun _ => rfl
  case and | xor | or => exact fun h => (rmwByte_modifies h).frame_keepsCF fun _ => rfl
  case keepsCF => exact fun _ h => (rmwByte_modifies h).frame_keepsCF_direct (fun _ => rfl) (rmwByte_direct h)

/-- Settles O58: each of the instructions is `rmwWord` at its operand; the shifts compute no ZF, the logic and DEC.W of 124 no
CF, and a direct operand is not refused. -/
theorem modifyWordFrames : Obligations.ModifyWordFrames := by
  intro o s t
  have any {f : Word → Alu 16} (h : rmwWord o f s = .next t) := (rmwWord_modifies h).frame
  simp only [List.forall_mem_cons, List.not_mem_nil, false_imp_iff, implies_true, and_true]
  refine ⟨⟨any, any, any, any, any, any, any, any, any, any⟩, ⟨?shl, ?shlc, ?shr, ?shrc⟩, ⟨?and, ?xor, ?or⟩, ?keepsCF⟩
  case shl | shlc | shr | shrc => exact fun h => (rmwWord_modifies h).frame_keepsZF fun _ => rfl
  case and | xor | or => exact fun h => (rmwWord_modifies h).frame_keepsCF fun _ => rfl
  case keepsCF => exact fun h => (rmwWord_modifies h).frame_keepsCF_direct (fun _ => rfl) (rmwWord_direct h)

end Sys2Proof.Machine
end

section
/-! PROOFS. Where the active counter goes, the state after reset, and what a step is where no interrupt is due. -/

namespace Sys2Proof.Machine

/-! ## The counter in use -/

/-- What is written to the counter in use, cut to its width, is what it then holds (R27, R29). -/
theorem activeCounter_setXC_toNat {s : State} (wf : s.cfg.wf = true) (v : Pair) :
    (activeCounter (setXC v s)).toNat = v.toNat % 2 ^ activeBits s := by
  have cut (bits width : Nat) (hw : bits ≤ width) (h32 : width ≤ 32) :
      (((keepLow bits v).setWidth width).setWidth 32).toNat = v.toNat % 2 ^ bits := by
    have lt : v.toNat % 2 ^ bits < 2 ^ bits := Nat.mod_lt _ (Nat.two_pow_pos bits)
    have le : 2 ^ bits ≤ 2 ^ width := Nat.pow_le_pow_right (by omega) hw
    have le32 : 2 ^ width ≤ 2 ^ 32 := Nat.pow_le_pow_right (by omega) h32
    rw [BitVec.toNat_setWidth, BitVec.toNat_setWidth, keepLow_toNat v (hw.trans h32), Nat.mod_eq_of_lt (by omega),
      Nat.mod_eq_of_lt (by omega)]
  simp only [Params.wf, Bool.and_eq_true, decide_eq_true_eq] at wf
  unfold activeCounter activeBits
  simp only [setXC_inInt, setXC_mf, setXC_pc, setXC_mc, setXC_ic]
  cases hi : s.inInt with
  | true => exact cut s.cfg.icBits 17 (by omega) (by decide)
  | false =>
    cases hm : s.mf with
    | true => exact cut s.cfg.mcBits 17 (by omega) (by decide)
    | false => exact cut s.cfg.pcBits 25 (by omega) (by decide)

/-- A write of the counter in use leaves every other field and the two other counters (R26). -/
theorem movesTo_setXC {s : State} {v : Pair} {target : Int} (wf : s.cfg.wf = true)
    (h : (v.toNat : Int) % (2 ^ activeBits s : Nat) = target % (2 ^ activeBits s : Nat)) :
    MovesTo target s (setXC v s) := by
  refine ⟨?frame, ?pc, ?mc, ?ic, ?target⟩
  case frame => unfold setXC; split_ifs <;> rfl
  case pc => rintro (e | e) <;> simp [e]
  case mc => rintro (e | e) <;> simp [e]
  case ic => intro e; simp [e]
  case target => rw [activeCounter_setXC_toNat wf, Int.natCast_emod, h]

/-- Settles O5: the sum wraps at 32 bits, which the width of the counter divides. -/
theorem counterAdvances : Obligations.CounterAdvances := by
  intro s n wf
  have bits : activeBits s ≤ 32 := (activeBits_le wf).trans (by decide)
  refine movesTo_setXC wf ?_
  rw [← Int.natCast_add, ← Int.natCast_emod, ← Int.natCast_emod, BitVec.toNat_add, BitVec.toNat_ofNat, Nat.add_mod_mod,
    Nat.mod_mod_of_dvd _ (Nat.pow_dvd_pow 2 bits)]

/-! ## Reset -/

/-- Settles O7: the fields of the state after reset, as it is written. -/
theorem resetIsQuiet : Obligations.ResetIsQuiet :=
  ⟨rfl, rfl, rfl, rfl, rfl, rfl, rfl, rfl, rfl, rfl, rfl, rfl, rfl, rfl, rfl⟩

/-! ## The step -/

/-- Where no interrupt is due a step is the next instruction's (R101 step 1). -/
theorem step_eq_runNext {s : State} (due : NoInterruptDue (takeRequests s)) : step s = runNext (takeRequests s) := by
  simp only [step, cycle, takenCause_eq_none due]

/-- A fetch that faults is the whole of `runNext`. -/
theorem runNext_of_fetch_error {s : State} {f : Fault} (h : fetchBytes s = .error f) : runNext s = .fault f := by
  rw [runNext, h]

/-- Settles O4: `stepIs_runInstr`, with the checks on the prefixes and on the end of the macro passed, and the two faults of the
fetch. -/
theorem stepRunsTheDecodedInstruction : Obligations.StepRunsTheDecodedInstruction := by
  rintro s _ rfl due
  have run := step_eq_runNext due
  refine ⟨fun bytes rest i fetched decoded allowed mayEnd => ?_, fun outside => ?_, fun two outside => ?_⟩
  · have ends := endsMacro_iff fetched
    rw [← propext ends]
    refine stepIs_runInstr (run.trans (runNext_eq fetched decoded)) ?_ fun e => ?_
    · rw [prefixFault_advance, prefixFault_eq_none allowed]
    · rw [endFault_advance, endFault_eq_none (mayEnd (ends.mp e))]
  · rw [run, runNext_of_fetch_error (fetchBytes_outside outside)]
  · rw [run, runNext_of_fetch_error (fetchBytes_secondOutside two outside)]

end Sys2Proof.Machine
end

section
/-! PROOFS. SETFLAG and RETI, and what every instruction does to the counters, to MF, EF and IF: each instruction once, in
`exec_controlChange`, from which the whole-machine rules follow. -/

namespace Sys2Proof.Machine

/-! ## SETFLAG and RETI -/

/-- SETFLAG that cannot read its byte. -/
theorem execSetflag_of_error {o : Operand} {s : State} {f : Fault} (h : readByte o s = .error f) :
    execSetflag o s = .fault f := by
  rw [execSetflag, h]

/-- SETFLAG with the byte read (R252, D37). -/
theorem execSetflag_of_read {o : Operand} {s t : State} {v : Byte} (h : readByte o s = .ok (v, t)) :
    execSetflag o s = if !s.inInt && v.getLsbD 1 != s.mf then .fault .setflagMf else .next (loadFlags v t) := by
  rw [execSetflag, h]

/-- The two outcomes of SETFLAG with the byte read, in the words of the statement. -/
theorem setflag_outcomes {o : Operand} {s t : State} {v : Byte} (h : readByte o s = .ok (v, t)) :
    (s.inInt = false → v.getLsbD 1 ≠ s.mf → execSetflag o s = .fault .setflagMf) ∧
    (s.inInt = true ∨ v.getLsbD 1 = s.mf →
      execSetflag o s = .next { t with
        zf := v.getLsbD 0, mf := v.getLsbD 1, off := v.extractLsb' 3 2, cf := v.getLsbD 7
        uf := if s.cfg.userMode then v.getLsbD 2 else s.uf }) := by
  rw [execSetflag_of_read h]
  refine ⟨fun out differs => ?_, fun allowed => ?_⟩
  · rw [out, bne_iff_ne.mpr differs]; rfl
  · have passes : (!s.inInt && v.getLsbD 1 != s.mf) = false := by
      rcases allowed with e | e
      · rw [e]; rfl
      · rw [e, bne_self_eq_false, Bool.and_false]
    rw [passes, readByteAt_frame h]
    rfl

/-- Settles O18: the byte is read or refused, and SETFLAG comes out by `setflag_outcomes`; or it does not exist. -/
theorem setflagLoadsTheFlags : Obligations.SetflagLoadsTheFlags := fun _ _ =>
  ⟨fun plain => setflag_outcomes (readByteAt_plain plain),
    fun refused => setflag_outcomes (readByteAt_protected refused),
    fun unrestricted absent => execSetflag_of_error (readByteAt_absent unrestricted absent)⟩

/-- In an interrupt a direct operand has offset 0 (R34). -/
theorem ea_dir_inInt {s : State} (h : s.inInt = true) (m : Fin 126) : ea (.dir m) s = BitVec.ofNat 24 m.val := by
  simp [ea, offsetEff, h]

/-- The user mode refuses no direct operand (R70). -/
theorem isProtected_direct (s : State) (addr : Triple) : isProtected s false addr = false := by
  simp [isProtected]

/-- Settles O19: in an interrupt RETI reads the direct byte at m, which only its absence keeps it from. -/
theorem retiLoadsTheFlagsAndReturns : Obligations.RetiLoadsTheFlagsAndReturns := by
  intro m s
  have outside (h : s.inInt = false) : execReti m s = .fault .retiOutsideInterrupt := by simp [execReti, h]
  have inside (h : s.inInt = true) :
      execReti m s = Res.finish (readByteAt false (BitVec.ofNat 24 m.val) s) leaveInterrupt := by
    rw [execReti, if_pos h, readByte, ea_dir_inInt h]; rfl
  refine ⟨outside, fun running absent => ?_, fun running present => ?_⟩
  · exact (inside running).trans (by rw [readByteAt_absent (isProtected_direct s _) absent, Res.finish_error])
  · have plain : plainAt false (BitVec.ofNat 24 m.val) s = true := by simp [plainAt, isProtected_direct, present]
    exact (inside running).trans (by rw [readByteAt_plain plain]; rfl)

/-! ## Instructions that leave the modes and the other counters -/

/-- The counters, and the modes that say which of them is in use, with EF. -/
def control (s : State) : BitVec 25 × BitVec 17 × BitVec 17 × Bool × Bool × Bool :=
  (s.pc, s.mc, s.ic, s.mf, s.inInt, s.ef)

/-- Going from `s` to `t` changes of `control` at most the counter in use (R26, R27). -/
structure Confined (s t : State) : Prop where
  mf : t.mf = s.mf
  inInt : t.inInt = s.inInt
  ef : t.ef = s.ef
  pc : s.inInt = true ∨ s.mf = true → t.pc = s.pc
  mc : s.inInt = true ∨ s.mf = false → t.mc = s.mc
  ic : s.inInt = false → t.ic = s.ic

theorem confined_of_control_eq {s t : State} (h : control t = control s) : Confined s t := by
  simp only [control, Prod.mk.injEq] at h
  obtain ⟨hpc, hmc, hic, hmf, hint, hef⟩ := h
  exact ⟨hmf, hint, hef, fun _ => hpc, fun _ => hmc, fun _ => hic⟩

/-- A frame whose listed fields are none of `control`'s. -/
theorem confined_of_eq {s t u : State} (frame : t = u) (h : control u = control s) : Confined s t :=
  confined_of_control_eq (frame ▸ h)

theorem confined_setXC {s u : State} (v : Pair) (h : control u = control s) : Confined s (setXC v u) := by
  simp only [control, Prod.mk.injEq] at h
  obtain ⟨hpc, hmc, hic, hmf, hint, hef⟩ := h
  refine ⟨by simp [hmf], by simp [hint], by simp [hef], ?pc, ?mc, ?ic⟩
  case pc => rintro (e | e) <;> simp [hint, hmf, hpc, e]
  case mc => rintro (e | e) <;> simp [hint, hmf, hmc, e]
  case ic => intro e; simp [hint, hic, e]

theorem confined_jumpIf {s u : State} (cond : Bool) (target : Pair) (h : control u = control s) :
    Confined s (jumpIf cond target u) := by
  unfold jumpIf
  split_ifs
  · exact confined_setXC target h
  · exact confined_of_control_eq h

theorem confined_linkTo (target : Pair) (s : State) : Confined s (linkTo target s) := confined_setXC target rfl

theorem confined_linkIf (cond : Bool) (target : Pair) (s : State) : Confined s (linkIf cond target s) := by
  unfold linkIf
  split_ifs
  · exact confined_linkTo target s
  all_goals exact confined_of_control_eq rfl

theorem confined_loopStep (n : Byte) (d : Triple) (s : State) : Confined s (loopStep n d s) := by
  unfold loopStep
  split_ifs
  · exact confined_jumpIf _ _ rfl
  · exact confined_of_control_eq rfl

/-- An instruction that goes on to a state it names. -/
theorem confined_of_next {s t u : State} (h : (.next u : Out) = .next t) (c : Confined s u) : Confined s t := by
  cases h; exact c

/-- An instruction that needs an option goes on only where the option is there. -/
theorem eq_next_of_ite {p : Prop} [Decidable p] {out : Out} {f : Fault} {t : State}
    (h : (if p then out else .fault f) = .next t) : out = .next t := by
  split_ifs at h; exact h

/-- An instruction on a 16-bit immediate that goes on. -/
theorem withImm_eq_next {n : Byte} {f : Word → State → State} {s t : State} (h : withImm n f s = .next t) :
    ∃ v, t = f v s := by
  unfold withImm at h
  split at h <;> cases h
  exact ⟨_, rfl⟩

theorem confined_withImm {n : Byte} {f : Word → State → State} {s t : State} (h : withImm n f s = .next t)
    (k : ∀ v, control (f v s) = control s) : Confined s t := by
  obtain ⟨v, rfl⟩ := withImm_eq_next h
  exact confined_of_control_eq (k v)

/-- NUM that goes on has taken its byte (R200). -/
theorem execNum_eq_next {n : Byte} {s t : State} (h : execNum n s = .next t) :
    t = { s with numV := s.numV.setWidth 8 ++ n, numN := t.numN } := by
  unfold execNum at h
  split at h <;> cases h <;> rfl

/-- An instruction that ends with a read. -/
theorem confined_read {α : Type} {s t : State} {r : Res α} {k : α → State → State} (reads : ReadsOnly s r)
    (h : Res.finish r k = .next t) (hk : ∀ v u, control (k v u) = control u) : Confined s t := by
  obtain ⟨v, b, n, rfl⟩ := finish_readsOnly reads h
  exact confined_of_control_eq (hk v _)

/-- An instruction that reads, and then writes at most memory and AE. -/
theorem confined_read_write {α β : Type} {s t : State} {r : Res α} {c : α → State → Res β} {k : β → State → State}
    (reads : ReadsOnly s r) (writes : ∀ v u w u', c v u = .ok (w, u') → u' = { u with mem := u'.mem, ae := u'.ae })
    (h : Res.finish (Res.andThen r c) k = .next t) (hk : ∀ w u, control (k w u) = control u) : Confined s t := by
  obtain ⟨w, u', done, rfl⟩ := Res.finish_next h
  obtain ⟨v, u, read, written⟩ := Res.andThen_eq_ok done
  refine confined_of_control_eq ((hk w u').trans ?_)
  rw [writes v u w u' written, reads v u read]
  rfl

/-- MULX that goes on, where the multiplier is built (R122). -/
theorem confined_mulx {s t : State} (h : execMulx s = .next t) : Confined s t := by
  refine confined_read_write (readsOnly_readWordAt _ _ s) (fun m u w u' written => ?_) (eq_next_of_ite h) fun _ _ => rfl
  obtain ⟨_, u1, stored, same⟩ := Res.andThen_eq_ok written
  cases same
  exact (writeWordAt_frame stored).1

theorem confined_mov {o : Operand} {s t : State} (h : execMov o s = .next t) : Confined s t :=
  confined_read_write (readsOnly_readByteAt _ _ s) (fun _ _ _ _ written => (writeByteAt_frame written).1) h fun _ _ => rfl

theorem confined_movW {o : Operand} {s t : State} (h : execMovW o s = .next t) : Confined s t :=
  confined_read_write (readsOnly_readWordAt _ _ s) (fun _ _ _ _ written => (writeWordAt_frame written).1) h fun _ _ => rfl

/-! ## What an instruction can do to the counters and the modes -/

/-- Every way an instruction that goes on from `s` may treat the counters, MF, IF and EF: it is confined to the counter in use, or
it is one of the instructions that name more, with what it answers. -/
inductive ControlChange (s : State) : Instr → State → Prop
  | confined {i : Instr} {t : State} (h : Confined s t) : ControlChange s i t
  | setpc (v : Pair) : ControlChange s .setpc (setPC v s)
  | setmc (v : Pair) : ControlChange s .setmc (setMC v s)
  | enable : ControlChange s .enable { s with ef := true }
  | disable : ControlChange s .disable { s with ef := false }
  | int (k : BitVec 4) : ControlChange s (.int k) (enterInterrupt k s)
  | setflag (o : Operand) (v : Byte) (b : Bool) (n : Nat) :
    ControlChange s (.setflag o) (loadFlags v { s with ae := b, draws := n })
  | reti (m : Fin 126) (v : Byte) (b : Bool) (n : Nat) :
    ControlChange s (.reti m) (leaveInterrupt v { s with ae := b, draws := n })
  | hardMacro (e : Bool) (op : BitVec 6) (g : Byte) (v : Pair) (m : Memory) (b : Bool) :
    ControlChange s (.hardMacro e op g) { setMC v { s with mem := m, ae := b } with c := g.setWidth 16, mf := true }

theorem controlChange_int {k : BitVec 4} {s t : State} (h : execInt k s = .next t) : ControlChange s (.int k) t := by
  unfold execInt at h
  split_ifs at h
  cases h
  exact .int k

theorem controlChange_setflag {o : Operand} {s t : State} (h : execSetflag o s = .next t) :
    ControlChange s (.setflag o) t := by
  unfold execSetflag at h
  split at h
  · cases h
  · next v u read =>
    split_ifs at h
    cases h
    rw [readByteAt_frame read]
    exact .setflag o v u.ae u.draws

theorem controlChange_reti {m : Fin 126} {s t : State} (h : execReti m s = .next t) : ControlChange s (.reti m) t := by
  obtain ⟨v, b, n, rfl⟩ := finish_readsOnly (readsOnly_readByteAt _ _ s) (eq_next_of_ite h)
  exact .reti m v b n

theorem controlChange_hardMacro {e : Bool} {op : BitVec 6} {g : Byte} {s t : State} (h : execHardMacro e op g s = .next t) :
    ControlChange s (.hardMacro e op g) t := by
  unfold execHardMacro at h
  split_ifs at h
  obtain ⟨_, u, written, rfl⟩ := Res.finish_next h
  rw [(writeByteAt_frame written).1]
  exact .hardMacro e op g _ u.mem u.ae

/-- Whatever the instruction, what it can do to the counters, MF, IF and EF. -/
theorem exec_controlChange {i : Instr} {s t : State} (h : exec i s = .next t) : ControlChange s i t := by
  cases i with
  | setpc => cases h; exact .setpc _
  | setmc => cases h; exact .setmc _
  | enable => cases h; exact .enable
  | disable => cases h; exact .disable
  | int k => exact controlChange_int h
  | setflag o => exact controlChange_setflag h
  | reti m => exact controlChange_reti h
  | hardMacro e op g => exact controlChange_hardMacro h
  | getflagW o | reservedG e op g | reservedOpmsb op g | unusedOp e op g => cases h
  | nop | getpc | getmc | addABXC | nibble | addABC | wshl | clc | offset k | cpuinforst | cpuinfoinc | cpuinfoget | clear k
  | ldAB | ldBA | swapAB | ldCA | ldABCA | ldBACA | ldABBACA | ldAC | ldBC | ldACBC | ldCB | ldACCB | swapBC | ldACBCCB
  | incB | incX | incBX | incBXm | dincB | dincX | dincBX | dincBXm | decB | decX | decBX | decBXp | ddecB | ddecX | ddecBX
  | ddecBXp | byteswap r | ldXAB | ldXAC | getstat | opmsb | inputa | outputb | inout
  | andAn n | xorAn n | orAn n | ldAn n | ldBn n | ldCn n | ldXn n | nLdXnn n | ldT n | addAn n | addcAn n
  | andAC | xorAC | orAC | addAC | addcAC | subAC | subcAC =>
    exact .confined (confined_of_next h (confined_of_control_eq rfl))
  | mul => exact .confined (confined_of_next (eq_next_of_ite h) (confined_of_control_eq rfl))
  | usermode k => exact .confined (confined_of_next (eq_next_of_ite h) (confined_of_control_eq rfl))
  | num n => exact .confined (confined_of_eq (execNum_eq_next h) rfl)
  | nAndAnn n | nXorAnn n | nOrAnn n | nAddAnn n | nAddcAnn n => exact .confined (confined_withImm h fun _ => rfl)
  | nLdAnn n => exact .confined (confined_withImm (f := fun v u => { u with a := v }) h fun _ => rfl)
  | nLdBnn n => exact .confined (confined_withImm (f := fun v u => { u with b := v }) h fun _ => rfl)
  | nLdCnn n => exact .confined (confined_withImm (f := fun v u => { u with c := v }) h fun _ => rfl)
  | ldA o | ldB o | ldC o | ldX o | out o | andA o | xorA o | orA o | addA o | addcA o | subA o | subcA o =>
    exact .confined (confined_read (readsOnly_readByteAt _ _ s) h fun _ _ => rfl)
  | ldWA o | ldWB o | ldWC o | word o | wordx o =>
    exact .confined (confined_read (readsOnly_readWordAt _ _ s) h fun _ _ => rfl)
  | ldWX o => exact .confined (confined_read (readsOnly_readWordAt _ _ s) (execLdWX_eq_next h) fun _ _ => rfl)
  | wLdX o => exact .confined (confined_read (readsOnly_tripleOperand o s) h fun _ _ => rfl)
  | wAndA o | wXorA o | wOrA o | wAddA o | wAddcA o | wSubA o | wSubcA o =>
    exact .confined (confined_read (readsOnly_wordOperand o s) h fun _ _ => rfl)
  | jrN n | jrB | jmpM m | jmpAB | jmpMB m => exact .confined (confined_of_next h (confined_setXC _ rfl))
  | brN n | brB | balM m | balAB | balMB m => exact .confined (confined_of_next h (confined_linkTo _ s))
  | jrc0N n | jrc1N n | jrz0N n | jrz1N n | jrc0B | jrc1B | jrz0B | jrz1B | jmpc0 | jmpc1 | jmpz0 | jmpz1 =>
    exact .confined (confined_of_next h (confined_jumpIf _ _ rfl))
  | brc0N n | brc1N n | brz0N n | brz1N n | brc0B | brc1B | brz0B | brz1B | balc0 | balc1 | balz0 | balz1 =>
    exact .confined (confined_of_next h (confined_linkIf _ _ s))
  | loopinc n | loopincW n | loopdec n | loopdecW n => exact .confined (confined_of_next h (confined_loopStep n _ s))
  | stA o | stB o | stC o | stX o | zero o | getflag o | inp o =>
    exact .confined (confined_of_eq (storeByte_frame h).1 rfl)
  | stWA o | stWB o | stWC o | zeroW o | inpW o => exact .confined (confined_of_eq (storeWord_frame h).1 rfl)
  | stTX o => exact .confined (confined_of_eq (storeTriple_frame h).1 rfl)
  | dincM o | ddecM o | shl o | shlc o | shr o | shrc o | andM o | xorM o | orM o | incM o | inccM o | addM o | addcM o
  | decM o | decKeep m | deccM o | subM o | subcM o =>
    exact .confined (confined_of_eq (rmwByte_modifies h).frame.1 rfl)
  | dincWM o | ddecWM o | shlW o | shlcW o | shrW o | shrcW o | andWM o | xorWM o | orWM o | incWM o | inccWM o | addWM o
  | addcWM o | decWM o | decWKeep | deccWM o | subWM o | subcWM o =>
    exact .confined (confined_of_eq (rmwWord_modifies h).frame.1 rfl)
  | mulx => exact .confined (confined_mulx h)
  | mov o => exact .confined (confined_mov h)
  | movW o => exact .confined (confined_movW h)

/-! ## The whole-machine rules -/

/-- Of the instructions only ENABLE and DISABLE change EF (R37). -/
theorem exec_keeps_ef {i : Instr} {s t : State} (h : exec i s = .next t) (he : i ≠ .enable) (hd : i ≠ .disable) :
    t.ef = s.ef := by
  cases exec_controlChange h with
  | confined c => exact c.ef
  | enable => exact absurd rfl he
  | disable => exact absurd rfl hd
  | setpc | setmc | int | setflag | reti | hardMacro => rfl

/-- Settles O11: entry writes IF and IC alone, and RETI is one of the instructions of `exec_keeps_ef`. -/
theorem onlyEnableAndDisableChangeEF : Obligations.OnlyEnableAndDisableChangeEF :=
  ⟨enterInterrupt_ef, fun _ _ _ h => exec_keeps_ef h nofun nofun, fun _ _ _ => exec_keeps_ef⟩

/-- Settles O12: every other instruction leaves IF. -/
theorem onlyRetiLeavesAnInterrupt : Obligations.OnlyRetiLeavesAnInterrupt := by
  intro i s t h
  have unchanged (same : t.inInt = s.inInt) : (s.inInt = true → t.inInt = false → ∃ m, i = .reti m) ∧
      (s.inInt = false → t.inInt = true → ∃ k, i = .int k) := by
    rw [same]; exact ⟨fun a b => absurd (a.symm.trans b) nofun, fun a b => absurd (a.symm.trans b) nofun⟩
  cases exec_controlChange h with
  | confined c => exact unchanged c.inInt
  | int k => exact ⟨nofun, fun _ _ => ⟨k, rfl⟩⟩
  | reti m => exact ⟨fun _ _ => ⟨m, rfl⟩, nofun⟩
  | setpc | setmc | enable | disable | setflag | hardMacro => exact unchanged rfl

/-- Settles O13: an instruction is confined to the counter in use, or writes one its own exception names, or no counter. -/
theorem onlyTheActiveCounterMoves : Obligations.OnlyTheActiveCounterMoves := by
  intro i s t h
  cases exec_controlChange h with
  | confined c => exact ⟨fun use _ => c.pc use, fun use _ _ => c.mc use, fun use _ => c.ic use⟩
  | setpc => exact ⟨fun _ other => absurd rfl other, fun _ _ _ => rfl, fun _ _ => rfl⟩
  | setmc => exact ⟨fun _ _ => rfl, fun _ other _ => absurd rfl other, fun _ _ => rfl⟩
  | int k => exact ⟨fun _ _ => rfl, fun _ _ _ => rfl, fun _ other => absurd rfl (other k)⟩
  | hardMacro e op g => exact ⟨fun _ _ => rfl, fun _ _ other => absurd rfl (other e op g), fun _ _ => rfl⟩
  | enable | disable | setflag | reti => exact ⟨fun _ _ => rfl, fun _ _ _ => rfl, fun _ _ => rfl⟩

end Sys2Proof.Machine
end

section
/-! PROOFS. The word loads, WORD and WORDX, and their consumers, each from what a read of its operand can do. -/

namespace Sys2Proof.Machine

/-! ## Reads -/

/-- An instruction that is the read of a byte and then goes on, as it goes on from a state that only AE and the count of free
values tell from the one before. -/
theorem readsByte_readByte_of_frame {o : Operand} {s : State} {k l : Byte → State → State} {out : Out}
    (h : out = Res.finish (readByte o s) k)
    (same : ∀ v t, t = { s with ae := t.ae, draws := t.draws } → k v t = l v t) : ReadsByte o s out l := by
  obtain ⟨plain, refused, absent⟩ := readsByte_readByte h
  exact ⟨fun p => (plain p).trans (congrArg _ (same _ _ rfl)),
    fun p => (refused p).trans (congrArg _ (same _ _ rfl)), absent⟩

/-- Where an instruction that reads a word goes on, AE and the count of free values alone have changed. -/
theorem ReadsWordThen.mono {o : Operand} {s : State} {out : Out} {K L : Word → State → Prop} (h : ReadsWordThen o s out K)
    (imp : ∀ v t, t = { s with ae := t.ae, draws := t.draws } → K v t → L v t) : ReadsWordThen o s out L := by
  obtain ⟨odd, plain, refused, lowRefused, absent⟩ := h
  exact ⟨odd, fun p => imp _ _ rfl (plain p), fun e p => imp _ _ rfl (refused e p),
    fun e p q => imp _ _ rfl (lowRefused e p q), absent⟩

/-- An instruction that is the read of a word and then goes on. -/
theorem readsWord_readWord {o : Operand} {s : State} {k : Word → State → State} {out : Out}
    (h : out = Res.finish (readWord o s) k) : ReadsWord o s out k :=
  readsWordThen_readWord (c := fun v t => .ok (v, t)) (by rw [Res.andThen_pure]; exact h) fun _ _ read => read

/-- Settles O35: each word load is the read of its operand, then a register, and so are WORD and WORDX; LD.W X first asks whether
it is built. -/
theorem wordLoadsAndPrefixes : Obligations.WordLoadsAndPrefixes := fun _ _ =>
  ⟨readsWord_readWord rfl, readsWord_readWord rfl, readsWord_readWord rfl,
    fun built => readsWord_readWord (if_pos built),
    fun postponed => if_neg (Bool.eq_false_iff.mp postponed),
    readsWord_readWord rfl, readsWord_readWord rfl⟩

/-! ## The consumers of WORD and WORDX (R242) -/

/-- An accumulator operation after a WORD with the same operand takes the word it read. -/
theorem accWord_word {o : Operand} {s : State} (f : Word → Alu 16) (k : s.wordK = .word) (g : o.toByte = s.wordG) :
    accWord o f s = .next (withAcc (f s.wordV) s) := by
  have operand : wordOperand o s = .ok (s.wordV, s) := by rw [wordOperand, k]; exact if_pos g
  rw [accWord, operand]; rfl

/-- An accumulator operation after a WORD with another operand. -/
theorem accWord_mismatch {o : Operand} {s : State} (f : Word → Alu 16) (k : s.wordK = .word) (g : o.toByte ≠ s.wordG) :
    accWord o f s = .fault .wordOperandMismatch := by
  have operand : wordOperand o s = .error .wordOperandMismatch := by rw [wordOperand, k]; exact if_neg g
  rw [accWord, operand]; rfl

/-- An accumulator operation after a WORDX reads the byte at its own operand (log 10). -/
theorem readsByte_accWord_wordx {o : Operand} {s : State} {out : Out} {f : Word → Alu 16} (k : s.wordK = .wordx)
    (h : out = accWord o f s) : ReadsByte o s out fun v t => withAcc (f (Config.wordxOperand s.wordV v)) t := by
  have operand : wordOperand o s =
      Res.andThen (readByte o s) fun v t => .ok (Config.wordxOperand s.wordV v, t) := by rw [wordOperand, k]
  rw [accWord, operand] at h
  exact readsByteThen_readByte h fun _ _ read => read

/-- LD X after a WORD with the same operand, not at a multiple of 4 (R238, R66). -/
theorem execWLdX_misaligned {o : Operand} {s : State} (k : s.wordK = .word) (g : o.toByte = s.wordG)
    (e : notFour (ea o s) = true) : execWLdX o s = .fault .misaligned := by
  have operand : tripleOperand o s = .error .misaligned := by
    rw [tripleOperand, k]; exact (if_pos g).trans (if_pos e)
  rw [execWLdX, operand]; rfl

/-- LD X after a WORD with the same operand reads the byte above the word (R238). -/
theorem execWLdX_word {o : Operand} {s : State} (k : s.wordK = .word) (g : o.toByte = s.wordG)
    (e : notFour (ea o s) = false) :
    execWLdX o s = Res.finish
      (Res.andThen (readByteAt (restricted o) (ea o s + 2) s) fun v t => .ok (v ++ s.wordV, t))
      fun v t => { t with x := v } := by
  have operand : tripleOperand o s =
      Res.andThen (readByteAt (restricted o) (ea o s ||| 2) s) fun v t => .ok (v ++ s.wordV, t) := by
    rw [tripleOperand, k]; exact (if_pos g).trans (if_neg (Bool.eq_false_iff.mp e))
  rw [execWLdX, operand, notFour_or_two e]

/-- LD X after a WORD with another operand. -/
theorem execWLdX_mismatch {o : Operand} {s : State} (k : s.wordK = .word) (g : o.toByte ≠ s.wordG) :
    execWLdX o s = .fault .wordOperandMismatch := by
  have operand : tripleOperand o s = .error .wordOperandMismatch := by rw [tripleOperand, k]; exact if_neg g
  rw [execWLdX, operand]; rfl

/-- LD X after a WORDX reads the byte at its own operand (log 10). -/
theorem readsByte_execWLdX_wordx {o : Operand} {s : State} (k : s.wordK = .wordx) :
    ReadsByte o s (execWLdX o s) fun v t => { t with x := Config.wordxTriple s.wordV v } := by
  have operand : tripleOperand o s =
      Res.andThen (readByte o s) fun v t => .ok (Config.wordxTriple s.wordV v, t) := by rw [tripleOperand, k]
  have load : execWLdX o s = Res.finish
      (Res.andThen (readByte o s) fun v t => .ok (Config.wordxTriple s.wordV v, t)) fun v t => { t with x := v } := by
    rw [execWLdX, operand]
  exact readsByteThen_readByte load fun _ _ read => read

/-- Settles O38: WORD and WORDX apart, and after WORD by whether the operand is its own. -/
theorem consumersOfWord : Obligations.ConsumersOfWord := by
  intro o s
  refine ⟨fun word => ⟨fun g => ?same, execWLdX_misaligned word, fun g e => ?triple, fun g => ?mismatch⟩,
    fun wordx => ?wordx⟩
  case same =>
    have acc (f : Word → Alu 16) := accWord_word f word g
    exact ⟨acc _, acc _, acc _, acc _, acc _, acc _, acc _⟩
  case triple => exact readsByteAtThen_readByteAt (execWLdX_word word g e) fun _ _ read => read
  case mismatch =>
    have acc (f : Word → Alu 16) := accWord_mismatch f word g
    simp only [List.forall_mem_cons, List.not_mem_nil, false_imp_iff, implies_true, and_true]
    exact ⟨acc _, acc _, acc _, acc _, acc _, acc _, acc _, execWLdX_mismatch word g⟩
  case wordx =>
    have acc {out : Out} {f : Word → Alu 16} := readsByte_accWord_wordx (o := o) (out := out) (f := f) wordx
    exact ⟨acc (f := fun v => logic (s.a &&& v)) rfl, acc (f := fun v => logic (s.a ^^^ v)) rfl,
      acc (f := fun v => logic (s.a ||| v)) rfl, acc (f := fun v => addC s.a v false) rfl,
      acc (f := fun v => addC s.a v s.cf) rfl, acc (f := fun v => subB s.a v false) rfl,
      acc (f := fun v => subB s.a v s.cf) rfl, readsByte_execWLdX_wordx wordx⟩

end Sys2Proof.Machine
end

section
/-! PROOFS. The stores, the ports, read-modify-write with a register, MOV, MULX, the hard macros and PMEMACC, each from what its
read and its write can do. -/

namespace Sys2Proof.Machine

/-! ## Stores -/

/-- An instruction that stores the low byte of a register. -/
theorem storesByte_lowByte {w : Nat} {o : Operand} {s : State} {out : Out} {v : BitVec w} (hw : 8 ≤ w)
    (h : out = Res.finish (writeByte o (v.setWidth 8) s) fun _ t => t) : StoresByte o s out (v.extractLsb' 0 8) := by
  rw [← BitVec.setWidth_eq_extractLsb' hw]
  exact storesByte_writeByte h

/-- The image of the flag register as a number (R30). -/
theorem flagImage_eq_ofNat (s : State) : flagImage s = BitVec.ofNat 8 (128 * s.cf.toNat + 8 * s.off.toNat +
    4 * (s.cfg.userMode && s.uf).toNat + 2 * s.mf.toNat + s.zf.toNat) := by
  unfold flagImage userMode
  generalize s.cf = cf, s.off = off, (s.cfg.userMode && s.uf) = uf, s.mf = mf, s.zf = zf
  revert cf off uf mf zf
  decide

/-- Settles O44: each of the instructions is the write of its byte at its operand. -/
theorem byteStores : Obligations.ByteStores := by
  intro o s
  rw [← flagImage_eq_ofNat]
  exact ⟨storesByte_lowByte (by decide) rfl, storesByte_lowByte (by decide) rfl, storesByte_lowByte (by decide) rfl,
    storesByte_lowByte (by decide) rfl, storesByte_writeByte rfl, storesByte_writeByte rfl⟩

/-- Settles O45: each of the instructions is the write of its word or triple at its operand. -/
theorem wordAndTripleStores : Obligations.WordAndTripleStores := fun _ _ =>
  ⟨storesWord_writeWord rfl, storesWord_writeWord rfl, storesWord_writeWord rfl, storesWord_writeWord rfl,
    storesTriple_writeTriple rfl⟩

/-! ## Ports (R75) -/

/-- A port input with an answer of the platform standing ready. -/
theorem ioAnswer_of_ready {s : State} {v : Word} {rest : List Word} (h : s.inputs = v :: rest) (port : Word) :
    ioAnswer port s = v := by
  rw [ioAnswer, h]; rfl

/-- A port input with no answer standing ready delivers a free value. -/
theorem ioAnswer_of_none {s : State} (h : s.inputs = []) (port : Word) :
    ioAnswer port s = Config.ioInput s.draws port := by
  rw [ioAnswer, h]; rfl

/-- The answer taken is no longer ready, and the transfer is logged. -/
theorem takeAnswer_of_ready {s : State} {u : Word} {rest : List Word} (h : s.inputs = u :: rest) (port : Word) (n : Nat)
    (v : Word) : takeAnswer port n v s = { s with inputs := rest, ioLog := .input port n v :: s.ioLog } := by
  simp [takeAnswer, h]

/-- With no answer ready a free value is counted, and the transfer is logged. -/
theorem takeAnswer_of_none {s : State} (h : s.inputs = []) (port : Word) (n : Nat) (v : Word) :
    takeAnswer port n v s = { s with draws := s.draws + 1, ioLog := .input port n v :: s.ioLog } := by
  simp [takeAnswer, h]

/-- IN is the store of the byte the port answers, in the state after the input. -/
theorem storesByte_execInp (o : Operand) (s : State) :
    StoresByte o (takeAnswer s.c 1 (((ioAnswer s.c s).extractLsb' 0 8).setWidth 16) s) (execInp o s)
      ((ioAnswer s.c s).extractLsb' 0 8) := by
  rw [← BitVec.setWidth_eq_extractLsb' (by decide)]
  exact storesByte_writeByte rfl

/-- IN.W is the store of the word the port answers, in the state after the input. -/
theorem storesWord_execInpW (o : Operand) (s : State) :
    StoresWord o (takeAnswer s.c 2 (ioAnswer s.c s) s) (execInpW o s) (ioAnswer s.c s) :=
  storesWord_writeWord rfl

/-- Settles O46: the input by whether an answer stands ready, then the store. -/
theorem inStoresThePortInput : Obligations.InStoresThePortInput := by
  intro o s
  have byte := storesByte_execInp o s
  have word := storesWord_execInpW o s
  refine ⟨fun v rest ready => ?_, fun none => ?_⟩
  · rw [ioAnswer_of_ready ready, takeAnswer_of_ready ready] at byte word
    exact ⟨byte, word⟩
  · rw [ioAnswer_of_none none, takeAnswer_of_none none] at byte word
    exact ⟨byte, word⟩

/-- INPUTA takes the port's answer to A (R179). -/
theorem execInputa_eq (s : State) :
    execInputa s = .next { takeAnswer s.c 2 (ioAnswer s.c s) s with a := ioAnswer s.c s } := rfl

theorem execInputa_of_ready {s : State} {v : Word} {rest : List Word} (h : s.inputs = v :: rest) :
    execInputa s = .next { s with a := v, inputs := rest, ioLog := .input s.c 2 v :: s.ioLog } := by
  rw [execInputa_eq, ioAnswer_of_ready h, takeAnswer_of_ready h]

theorem execInputa_of_none {s : State} (h : s.inputs = []) :
    execInputa s = .next { s with
      a := Config.ioInput s.draws s.c, draws := s.draws + 1
      ioLog := .input s.c 2 (Config.ioInput s.draws s.c) :: s.ioLog } := by
  rw [execInputa_eq, ioAnswer_of_none h, takeAnswer_of_none h]

/-- INOUT is INPUTA after the output of B (R181). -/
theorem execInout_eq (s : State) : execInout s = execInputa (ioOut s.c 2 s.b s) := rfl

/-- Settles O27: the inputs by whether an answer stands ready, which an output leaves; OUT is the read of its operand, then the
output. -/
theorem portTransfers : Obligations.PortTransfers := by
  intro s
  refine ⟨rfl, fun v rest ready => ⟨execInputa_of_ready ready, ?readyInout⟩,
    fun none => ⟨execInputa_of_none none, ?freeInout⟩, fun o => ?out⟩
  case readyInout =>
    exact (execInout_eq s).trans (execInputa_of_ready (s := ioOut s.c 2 s.b s) ready)
  case freeInout =>
    exact (execInout_eq s).trans (execInputa_of_none (s := ioOut s.c 2 s.b s) none)
  case out =>
    refine readsByte_readByte_of_frame (out := execOut o s) rfl fun v t frame => ?_
    rw [frame]; rfl

/-! ## Read-modify-write with a register, and MOV -/

/-- The register of a two-operand read-modify-write (R340). -/
theorem rmwSource_eq (o : Operand) (s : State) : rmwSource o s = if o = .ab then s.c else s.a := by
  cases o <;> rfl

/-- Settles O49: each of the instructions is `rmwByte` with its function of the byte and the register. -/
theorem modifyByteWithRegister : Obligations.ModifyByteWithRegister := by
  intro o s
  rw [← rmwSource_eq, ← BitVec.setWidth_eq_extractLsb' (by decide)]
  exact ⟨modifiesByte_rmwByte rfl, modifiesByte_rmwByte rfl, modifiesByte_rmwByte rfl, modifiesByte_rmwByte rfl,
    modifiesByte_rmwByte rfl, modifiesByte_rmwByte rfl, modifiesByte_rmwByte rfl⟩

/-- Settles O50: each of the instructions is `rmwWord` with its function of the word and the register. -/
theorem modifyWordWithRegister : Obligations.ModifyWordWithRegister := by
  intro o s
  rw [← rmwSource_eq]
  exact ⟨modifiesWord_rmwWord rfl, modifiesWord_rmwWord rfl, modifiesWord_rmwWord rfl, modifiesWord_rmwWord rfl,
    modifiesWord_rmwWord rfl, modifiesWord_rmwWord rfl, modifiesWord_rmwWord rfl⟩

/-- Settles O51: the read of the operand, then the write at [X] in the state the read leaves. -/
theorem movStoresAtX : Obligations.MovStoresAtX := fun o s =>
  ⟨readsByteThen_readByte (out := execMov o s) rfl fun _ _ => storesByte_writeByte,
    readsWordThen_readWord (out := execMovW o s) rfl fun _ _ => storesWord_writeWord⟩

/-! ## Multiplication (R122, R138, D15) -/

/-- The high half of a pair as a number. -/
theorem highHalf_eq_ofNat (p : Pair) : p.extractLsb' 16 16 = BitVec.ofNat 16 (p.toNat / 65536) := by
  rw [BitVec.extractLsb', Nat.shiftRight_eq_div_pow]

/-- The low half of a pair as a number. -/
theorem lowHalf_eq_ofNat (p : Pair) : p.extractLsb' 0 16 = BitVec.ofNat 16 p.toNat := by
  rw [BitVec.extractLsb', Nat.shiftRight_zero]

/-- The unsigned product of two words and a third added fit in 32 bits. -/
theorem toNat_mul_add (u v m : Word) :
    (u.setWidth 32 * v.setWidth 32 + m.setWidth 32 : Pair).toNat = u.toNat * v.toNat + m.toNat := by
  have le : u.toNat * v.toNat ≤ 65535 * 65535 := Nat.mul_le_mul (by omega) (by omega)
  have mul : (u.setWidth 32 * v.setWidth 32 : Pair).toNat = u.toNat * v.toNat := by
    rw [BitVec.toNat_mul, BitVec.toNat_setWidth_of_le (by decide), BitVec.toNat_setWidth_of_le (by decide)]
    omega
  rw [BitVec.toNat_add, mul, BitVec.toNat_setWidth_of_le (by decide)]
  omega

/-- Direct address 0 is even, whatever the offset (R34, R96). -/
theorem oddAddress_ea_dir_zero (s : State) : oddAddress (ea (.dir 0) s) = false := by
  simp only [ea, oddAddress]
  generalize offsetEff s = k
  revert k
  decide

/-- A word every byte of which may be stored is stored. -/
theorem storesEach_word_storable {r : Bool} {out : Out} {k : State → State} {addr : Triple} {v : Word} {s : State}
    (h : StoresEach r out k (wordCells addr v) s) (low : storableAt r addr s = true)
    (high : storableAt r (addr + 1) s = true) : out = .next (k (putWord addr v s)) := by
  rw [← storableAt_putByte (v := v.extractLsb' 0 8) low] at high
  exact (h.1 low).1 high

/-- What may be stored at is plain. -/
theorem plainWord_of_storableWord {o : Operand} {s : State} (h : storableWord o s = true) : plainWord o s = true := by
  simp only [storableWord, storableAt, plainWord, Bool.and_eq_true] at h ⊢
  obtain ⟨⟨even, low⟩, high⟩ := h
  exact ⟨⟨even, low.1.1⟩, high.1.1⟩

/-- MULX reads the word at direct address 0 and stores the high half of the sum there (R122). -/
theorem readsWordThen_execMulx {s : State} (built : s.cfg.hasMul = true) :
    ReadsWordThen (.dir 0) s (execMulx s) fun m t =>
      StoresEach false (execMulx s) (fun w => { w with a := BitVec.ofNat 16 (s.a.toNat * s.c.toNat + m.toNat) })
        (wordCells (ea (.dir 0) s) (BitVec.ofNat 16 ((s.a.toNat * s.c.toNat + m.toNat) / 65536))) t := by
  have reads := readsWordThen_readWord (out := execMulx s) (if_pos built) fun _ _ rest => rest
  refine reads.mono fun m t frame rest => ?_
  have addr : ea (.dir 0) t = ea (.dir 0) s := by rw [frame]; rfl
  have stores := storesEach_writeWordAt (oddAddress_ea_dir_zero t) rest
  rwa [addr, highHalf_eq_ofNat, lowHalf_eq_ofNat, toNat_mul_add] at stores

/-- Settles O24: the products by `toNat_mul_add`; MULX by `readsWordThen_execMulx`, of which a storable word is one case. -/
theorem multiplication : Obligations.Multiplication := by
  intro s
  refine ⟨fun built => ?_, fun absent => if_neg (Bool.eq_false_iff.mp absent), fun built store => ?_,
    readsWordThen_execMulx, fun absent => if_neg (Bool.eq_false_iff.mp absent)⟩
  · have product : (s.a.setWidth 32 * s.c.setWidth 32 : Pair).toNat = s.a.toNat * s.c.toNat := by
      simpa using toNat_mul_add s.a s.c 0
    refine (if_pos built).trans ?_
    rw [highHalf_eq_ofNat, lowHalf_eq_ofNat, product]
  · have stores := (readsWordThen_execMulx built).2.1 (plainWord_of_storableWord store)
    simp only [storableWord, Bool.and_eq_true] at store
    obtain ⟨⟨_, low⟩, high⟩ := store
    exact storesEach_word_storable stores low high

/-! ## Hard macros and PMEMACC -/

/-- What a store goes on to need be known only of states with the same parameters. -/
theorem StoresEach.congr {r : Bool} {out : Out} {k l : State → State} {cells : List (Triple × Byte)} {s : State}
    (h : StoresEach r out k cells s) (same : ∀ t : State, t.cfg = s.cfg → k t = l t) : StoresEach r out l cells s := by
  induction cells generalizing s with
  | nil => exact Eq.trans h (congrArg _ (same s rfl))
  | cons cell rest ih =>
    obtain ⟨stored, refused, dropped, absent, adjacent⟩ := h
    exact ⟨fun p => ih (stored p) same, fun p => ih (refused p) same, fun p d => ih (dropped p d) same, absent, adjacent⟩

/-- Going to the entry of a routine: under the parameters' ranges the address is within the counters' reach (R23, R391). -/
theorem setMC_macroEntry {s t : State} (wf : s.cfg.wf = true) (op : BitVec 6) (cfg : t.cfg = s.cfg) :
    setMC (macroEntry op s) t =
      { t with mc := BitVec.ofNat 17 ((op.toNat * s.cfg.macroStride + s.cfg.macroBase) % 2 ^ s.cfg.mcBits) } := by
  simp only [Params.wf, Bool.and_eq_true, decide_eq_true_eq] at wf
  have bits : 2 ^ s.cfg.mcBits ≤ 2 ^ 17 := Nat.pow_le_pow_right (by omega) (by omega)
  have stride : op.toNat * s.cfg.macroStride ≤ 64 * s.cfg.macroStride := Nat.mul_le_mul_right _ op.isLt.le
  have entry : (macroEntry op s).toNat = op.toNat * s.cfg.macroStride + s.cfg.macroBase := by
    rw [macroEntry, BitVec.toNat_ofNat]
    omega
  rw [setMC, cfg, keepLow, entry, BitVec.setWidth_ofNat_of_le (by decide)]

/-- Settles O52: the store of the operand, then the entry into the routine; a storable byte is the first case of the store. -/
theorem hardMacroEntry : Obligations.HardMacroEntry := by
  intro e op g s entered
  refine ⟨fun outside noMacro wf => ?_, fun inside => if_pos inside⟩
  have store : execHardMacro e op g s = Res.finish
      (Res.andThen (writeByteAt false (ea (.dir 0) s) g s) fun _ t => .ok ((), t))
      fun _ t => { setMC (macroEntry op s) t with c := g.setWidth 16, mf := true } := by
    rw [Res.andThen_pure]
    exact (if_neg (Bool.eq_false_iff.mp outside)).trans (if_neg (Bool.eq_false_iff.mp noMacro))
  have stores := (storesEach_writeByteAt store).congr (l := entered) fun t cfg => by
    rw [setMC_macroEntry wf op cfg]
  exact ⟨stores.1, stores⟩

/-- Settles O54: the prefixes pending decide, then the option; an address is physical as `physical` has it. -/
theorem pmemaccReachesProgramMemory : Obligations.PmemaccReachesProgramMemory := by
  intro s addr
  refine ⟨fun pending => if_pos ?_, fun num word pmem => ⟨fun built => ?_, fun absent => ?_⟩, rfl, rfl⟩
  · rcases pending with num | word | pmem
    · simp [num]
    · simp [word]
    · simp [pmem]
  · simp [pmemacc, num, word, pmem, built]
  · simp [pmemacc, num, word, pmem, absent]

end Sys2Proof.Machine
end

section
/-! PROOFS. What is stored is read back, at each width. -/

namespace Sys2Proof.Machine

/-! ## Operations that go on -/

/-- An instruction goes on to one state. -/
theorem eq_of_eq_next {out : Out} {t u : State} (ht : out = .next t) (hu : out = .next u) : t = u :=
  Host.Outcome.next.inj (ht.symm.trans hu)

/-- An instruction that ends with an operation that goes on. -/
theorem Res.finish_of_eq_ok {α : Type} {r : Res α} {v : α} {t : State} (h : r = .ok (v, t)) (k : α → State → State) :
    Res.finish r k = .next (k v t) := by
  rw [h]; rfl

/-! ## Bytes, words and triples stored -/

/-- A word is its two bytes (R64). -/
theorem upper_append_lower_word (v : Word) : v.extractLsb' 8 8 ++ v.extractLsb' 0 8 = v :=
  (BitVec.extractLsb'_append_extractLsb'_eq_extractLsb' rfl).trans BitVec.extractLsb'_eq_self

/-- A triple is a word and the byte above it (R64). -/
theorem upper_append_lower_triple (v : Triple) : v.extractLsb' 16 8 ++ v.extractLsb' 0 16 = v :=
  (BitVec.extractLsb'_append_extractLsb'_eq_extractLsb' rfl).trans BitVec.extractLsb'_eq_self

/-- A word stored is read back. -/
theorem wordAtData_putWord (addr : Triple) (v : Word) {s : State} (w : s.mem.wf = true) :
    wordAtData addr (putWord addr v s) = v := by
  have apart : addr ≠ addr + 1 := by bv_omega
  have high : byteAt (addr + 1) (putWord addr v s) = v.extractLsb' 8 8 := byteAt_putByte_same _ _ (putByte_wf _ _ w)
  have low : byteAt addr (putWord addr v s) = v.extractLsb' 0 8 :=
    (byteAt_putByte_other apart _ _).trans (byteAt_putByte_same _ _ w)
  rw [wordAtData, high, low, upper_append_lower_word]

/-- A triple stored is a word stored and a byte above it. -/
theorem putTriple_eq_putByte_putWord (addr : Triple) (v : Triple) (s : State) :
    putTriple addr v s = putByte (addr + 2) (v.extractLsb' 16 8) (putWord addr (v.extractLsb' 0 16) s) := by
  rw [putTriple, putWord, BitVec.extractLsb'_extractLsb'_of_le (by decide), BitVec.extractLsb'_extractLsb'_of_le (by decide)]

/-- The lower word of a triple stored. -/
theorem wordAtData_putTriple (addr : Triple) (v : Triple) {s : State} (w : s.mem.wf = true) :
    wordAtData addr (putTriple addr v s) = v.extractLsb' 0 16 := by
  have above : addr ≠ addr + 2 ∧ addr + 1 ≠ addr + 2 := by constructor <;> bv_omega
  rw [putTriple_eq_putByte_putWord, wordAtData, byteAt_putByte_other above.2, byteAt_putByte_other above.1]
  exact wordAtData_putWord addr _ w

/-- The upper byte of a triple stored. -/
theorem byteAt_putTriple (addr : Triple) (v : Triple) {s : State} (w : s.mem.wf = true) :
    byteAt (addr + 2) (putTriple addr v s) = v.extractLsb' 16 8 :=
  byteAt_putByte_same _ _ (putByte_wf _ _ (putByte_wf _ _ w))

@[simp] theorem ea_putTriple (o : Operand) (addr : Triple) (v : Triple) (s : State) :
    ea o (putTriple addr v s) = ea o s := by
  simp [putTriple]

@[simp] theorem plainAt_putTriple (r : Bool) (addr other : Triple) (v : Triple) (s : State) :
    plainAt r other (putTriple addr v s) = plainAt r other s := by
  simp [putTriple]

/-- A multiple of 4 is even. -/
theorem oddAddress_of_notFour {addr : Triple} (e : notFour addr = false) : oddAddress addr = false := by
  simp only [notFour, Bool.or_eq_false_iff] at e
  exact e.1

/-! ## LD X after WORD -/

/-- The state with WORD pending for its operand (R240). -/
def withWordPrefix (o : Operand) (v : Word) (t : State) : State :=
  { t with wordV := v, wordG := o.toByte, wordK := .word }

@[simp] theorem ea_withWordPrefix (o p : Operand) (v : Word) (t : State) : ea p (withWordPrefix o v t) = ea p t := by
  cases p <;> rfl

/-- LD X at the operand WORD has just read puts above its word the third byte, where that is plain (R238). -/
theorem execWLdX_withWordPrefix {o : Operand} {w : Word} {t : State} (four : notFour (ea o t) = false)
    (plain : plainAt (restricted o) (ea o t + 2) t = true) :
    execWLdX o (withWordPrefix o w t) = .next { withWordPrefix o w t with x := byteAt (ea o t + 2) t ++ w } := by
  rw [← ea_withWordPrefix o o w] at four plain ⊢
  rw [execWLdX_word rfl rfl four, readByteAt_plain (s := withWordPrefix o w t) plain]
  rfl

/-! ## Stores and reads -/

section ReadBack

variable {o : Operand} {s t : State} (wf : s.mem.wf = true)
include wf

/-- The byte a store leaves at its operand is what a read there delivers. -/
theorem readByte_of_stored {v : Byte} (storable : storableByte o s = true)
    (stored : Res.finish (writeByte o v s) (fun _ u => u) = .next t) : readByte o t = .ok (v, t) := by
  obtain rfl : t = putByte (ea o s) v s := eq_of_eq_next stored ((storesByte_writeByte rfl).1 storable)
  have plain : plainAt (restricted o) (ea o s) (putByte (ea o s) v s) = true := by
    simp only [storableByte, storableAt, Bool.and_eq_true] at storable
    exact storable.1.1
  rw [readByte, ea_putByte, readByteAt_plain plain, byteAt_putByte_same _ _ wf]

/-- The word a store leaves at its operand is what a read there delivers. -/
theorem readWord_of_stored {v : Word} (storable : storableWord o s = true)
    (stored : Res.finish (writeWord o v s) (fun _ u => u) = .next t) : readWord o t = .ok (v, t) := by
  obtain rfl : t = putWord (ea o s) v s := eq_of_eq_next stored ((storesWord_writeWord rfl).2.1 storable)
  have plain := plainWord_of_storableWord storable
  simp only [plainWord, Bool.and_eq_true, Bool.not_eq_true'] at plain
  obtain ⟨⟨even, low⟩, high⟩ := plain
  have addr : ea o (putWord (ea o s) v s) = ea o s := by simp [putWord]
  rw [readWord, addr, readWordAt_plain (s := putWord (ea o s) v s) even low high, wordAtData_putWord _ _ wf]

/-- The triple a store leaves at its operand is what WORD and LD X there load. -/
theorem wordThenLdX_of_stored {v : Triple} (storable : storableTriple o s = true)
    (stored : Res.finish (writeTriple o v s) (fun _ u => u) = .next t) :
    ∃ u, execWord o t = .next u ∧ execWLdX o u = .next { u with x := v } := by
  obtain rfl : t = putTriple (ea o s) v s := eq_of_eq_next stored ((storesTriple_writeTriple rfl).2.1 storable)
  simp only [storableTriple, storableAt, Bool.and_eq_true, Bool.not_eq_true'] at storable
  obtain ⟨⟨⟨four, ⟨low, _⟩, _⟩, ⟨middle, _⟩, _⟩, ⟨high, _⟩, _⟩ := storable
  have word : readWord o (putTriple (ea o s) v s) = .ok (v.extractLsb' 0 16, putTriple (ea o s) v s) := by
    rw [readWord, ea_putTriple, ← wordAtData_putTriple (ea o s) v wf]
    exact readWordAt_plain (oddAddress_of_notFour four) (by rwa [plainAt_putTriple]) (by rwa [plainAt_putTriple])
  have load := execWLdX_withWordPrefix (o := o) (w := v.extractLsb' 0 16) (t := putTriple (ea o s) v s)
    (by rwa [ea_putTriple]) (by rwa [ea_putTriple, plainAt_putTriple])
  rw [ea_putTriple, byteAt_putTriple _ _ wf, upper_append_lower_triple] at load
  exact ⟨_, Res.finish_of_eq_ok word _, load⟩

end ReadBack

/-! ## Loads -/

/-- The byte loads at an operand deliver this byte. -/
def ByteLoadsDeliver (o : Operand) (v : Byte) (t : State) : Prop :=
  exec (.ldA o) t = .next { t with a := v.setWidth 16 } ∧
  exec (.ldB o) t = .next { t with b := v.setWidth 16 } ∧
  exec (.ldC o) t = .next { t with c := v.setWidth 16 } ∧
  exec (.ldX o) t = .next { t with x := v.setWidth 24 }

theorem byteLoadsDeliver_of_read {o : Operand} {v : Byte} {t : State} (read : readByte o t = .ok (v, t)) :
    ByteLoadsDeliver o v t :=
  ⟨Res.finish_of_eq_ok read _, Res.finish_of_eq_ok read _, Res.finish_of_eq_ok read _, Res.finish_of_eq_ok read _⟩

/-- The word loads and WORD at an operand deliver this word. -/
def WordLoadsDeliver (o : Operand) (v : Word) (t : State) : Prop :=
  exec (.ldWA o) t = .next { t with a := v } ∧
  exec (.ldWB o) t = .next { t with b := v } ∧
  exec (.ldWC o) t = .next { t with c := v } ∧
  exec (.word o) t = .next { t with wordV := v, wordG := o.toByte, wordK := .word }

theorem wordLoadsDeliver_of_read {o : Operand} {v : Word} {t : State} (read : readWord o t = .ok (v, t)) :
    WordLoadsDeliver o v t :=
  ⟨Res.finish_of_eq_ok read _, Res.finish_of_eq_ok read _, Res.finish_of_eq_ok read _, Res.finish_of_eq_ok read _⟩

/-- Settles O60: what a store of each width leaves is what a read of that width then delivers, and the loads are reads. -/
theorem loadsReturnStoredData : Obligations.LoadsReturnStoredData := by
  intro o s t wf
  simp only [List.forall_mem_cons, List.not_mem_nil, false_imp_iff, implies_true, and_true]
  refine ⟨fun storable => ?byte, fun storable => ?word, wordThenLdX_of_stored wf⟩
  case byte =>
    have delivers {v : Byte} (stored : Res.finish (writeByte o v s) (fun _ u => u) = .next t) : ByteLoadsDeliver o v t :=
      byteLoadsDeliver_of_read (readByte_of_stored wf storable stored)
    simp only [← BitVec.setWidth_eq_extractLsb' (show 8 ≤ 16 by decide),
      ← BitVec.setWidth_eq_extractLsb' (show 8 ≤ 24 by decide)]
    exact ⟨delivers, delivers, delivers, delivers, delivers, delivers⟩
  case word =>
    have delivers {v : Word} (stored : Res.finish (writeWord o v s) (fun _ u => u) = .next t) : WordLoadsDeliver o v t :=
      wordLoadsDeliver_of_read (readWord_of_stored wf storable stored)
    exact ⟨delivers, delivers, delivers, delivers⟩

end Sys2Proof.Machine
end

section
/-! PROOFS. Operand bytes and their forms, the two bytes of an instruction word, and what the decoder does with them. -/

namespace Sys2Proof

/-- A word is known by its value. -/
theorem eq_ofNat_of_toNat_eq {w n : Nat} {v : BitVec w} (h : v.toNat = n) : v = BitVec.ofNat w n := by
  rw [← h, BitVec.ofNat_toNat, BitVec.setWidth_eq]

/-! ## Operand bytes (R96) -/

theorem Operand.toNat_toByte_dir (m : Fin 126) : (Operand.dir m).toByte.toNat = m.val :=
  Nat.mod_eq_of_lt (m.isLt.trans (by decide))

theorem Operand.toNat_toByte_mb (m : BitVec 7) : (Operand.mb m).toByte.toNat = 128 + m.toNat := by
  rw [toByte, BitVec.toNat_append, ← Nat.shiftLeft_add_eq_or_of_lt m.isLt]
  rfl

/-- An addressing form is read back from its byte. -/
theorem Operand.ofByte_toByte (o : Operand) : ofByte o.toByte = o := by
  cases o with
  | dir m => simp [ofByte, toNat_toByte_dir, m.isLt]
  | x => rfl
  | ab => rfl
  | mb m =>
    have big : (mb m).toByte.toNat = 128 + m.toNat := toNat_toByte_mb m
    have notX : (mb m).toByte ≠ 126 := fun e => by simp [e] at big; omega
    have notAB : (mb m).toByte ≠ 127 := fun e => by simp [e] at big; omega
    have low : (mb m).toByte.setWidth 7 = m := by
      apply BitVec.eq_of_toNat_eq
      rw [BitVec.toNat_setWidth, big]
      omega
    rw [ofByte, dif_neg (by omega), if_neg notX, if_neg notAB, low]

/-- Every byte is that of the form it selects. -/
theorem Operand.toByte_ofByte (g : Byte) : (ofByte g).toByte = g := by
  unfold ofByte
  split_ifs with direct isX isAB
  · exact BitVec.ofNat_toNat 8 g
  · exact isX.symm
  · exact isAB.symm
  · have notX : g.toNat ≠ 126 := fun e => isX (BitVec.eq_of_toNat_eq e)
    have notAB : g.toNat ≠ 127 := fun e => isAB (BitVec.eq_of_toNat_eq e)
    apply BitVec.eq_of_toNat_eq
    rw [toNat_toByte_mb, BitVec.toNat_setWidth]
    omega

theorem Operand.toByte_injective : Function.Injective Operand.toByte :=
  Function.LeftInverse.injective ofByte_toByte

theorem Operand.toByte_surjective : Function.Surjective Operand.toByte :=
  Function.RightInverse.surjective toByte_ofByte

/-! The forms of the bytes that the rows over every form leave out (R105). -/

@[simp] theorem Operand.toByte_eq_0 {o : Operand} : o.toByte = 0#8 ↔ o = .dir 0 :=
  toByte_injective.eq_iff (b := .dir 0)
@[simp] theorem Operand.toByte_eq_124 {o : Operand} : o.toByte = 124#8 ↔ o = .dir 124 :=
  toByte_injective.eq_iff (b := .dir 124)
@[simp] theorem Operand.toByte_eq_125 {o : Operand} : o.toByte = 125#8 ↔ o = .dir 125 :=
  toByte_injective.eq_iff (b := .dir 125)
@[simp] theorem Operand.toByte_eq_126 {o : Operand} : o.toByte = 126#8 ↔ o = .x :=
  toByte_injective.eq_iff (b := .x)
@[simp] theorem Operand.toByte_eq_127 {o : Operand} : o.toByte = 127#8 ↔ o = .ab :=
  toByte_injective.eq_iff (b := .ab)

/-- The forms ST B and ZERO accept are those with a byte below 127 (R313, R315). -/
theorem Operand.isDirOrX_iff (o : Operand) : o.isDirOrX = true ↔ o.toByte.toNat < 127 := by
  cases o with
  | dir m => simp only [isDirOrX, toNat_toByte_dir, true_iff]; omega
  | x => decide
  | ab => decide
  | mb m => simp only [isDirOrX, toNat_toByte_mb, Bool.false_eq_true, false_iff]; omega

/-! ## Words as bytes (R65, R90) -/

/-- The upper byte of an instruction word: bits 15 and 14 and the OP code (R90). -/
def opByte (bit15 bit14 : Bool) (op : BitVec 6) : Byte := BitVec.ofBool bit15 ++ BitVec.ofBool bit14 ++ op

theorem instrWord_eq (e : Bool) (op : BitVec 6) (g : Byte) : instrWord e op g = opByte e false op ++ g := rfl

theorem macroWord_eq (e : Bool) (op : BitVec 6) (g : Byte) : macroWord e op g = opByte e true op ++ g := rfl

@[simp] theorem opByte_bit15 (e m : Bool) (op : BitVec 6) : (opByte e m op)[7] = e := by
  rw [← BitVec.getLsbD_eq_getElem]
  simp only [opByte, BitVec.getLsbD_append]
  simp

@[simp] theorem opByte_bit14 (e m : Bool) (op : BitVec 6) : (opByte e m op)[6] = m := by
  rw [← BitVec.getLsbD_eq_getElem]
  simp only [opByte, BitVec.getLsbD_append]
  simp

@[simp] theorem opByte_op (e m : Bool) (op : BitVec 6) : (opByte e m op).extractLsb' 0 6 = op :=
  BitVec.extractLsb'_append_eq_right

/-- A byte is the upper byte of its own fields. -/
theorem opByte_fields {b : Byte} {m : Bool} (bit14 : b.getLsbD 6 = m) :
    opByte (b.getLsbD 7) m (b.extractLsb' 0 6) = b := by
  subst bit14
  revert b
  decide

theorem wordBytes_append (b0 b1 : Byte) : wordBytes (b1 ++ b0) = [b0, b1] := by
  rw [wordBytes, BitVec.extractLsb'_append_eq_left, BitVec.setWidth_append_eq_right]

/-- The bytes of an instruction of one word, low byte first. -/
theorem encodeBytes_of_word {i : Instr} {b0 b1 : Byte} (enc : encode i = [b1 ++ b0]) : encodeBytes i = [b0, b1] := by
  rw [encodeBytes, enc, List.flatMap_singleton, wordBytes_append]

theorem encodeBytes_of_instrWord {i : Instr} {e : Bool} {op : BitVec 6} {g : Byte} (enc : encode i = [instrWord e op g]) :
    encodeBytes i = [g, opByte e false op] := encodeBytes_of_word (enc.trans (by rw [instrWord_eq]))

theorem encodeBytes_hardMacro (bit15 : Bool) (op : BitVec 6) (g : Byte) :
    encodeBytes (.hardMacro bit15 op g) = [g, opByte bit15 true op] :=
  encodeBytes_of_word (congrArg (fun w => [w]) (macroWord_eq bit15 op g))

theorem encode_ldT (nnn : Triple) :
    encode (.ldT nnn) = [opByte true false 0x0B ++ nnn.setWidth 8, nnn.extractLsb' 8 16] := rfl

/-- The bytes of LD.T, its two words low byte first (R94, R216). -/
theorem encodeBytes_ldT (uu hh n : Byte) : encodeBytes (.ldT (uu ++ hh ++ n)) = [n, opByte true false 0x0B, hh, uu] := by
  have low : (uu ++ hh ++ n : Triple).setWidth 8 = n := BitVec.setWidth_append_eq_right
  have high : (uu ++ hh ++ n : Triple).extractLsb' 8 16 = uu ++ hh := BitVec.extractLsb'_append_eq_left
  rw [encodeBytes, encode_ldT, low, high, List.flatMap_cons, List.flatMap_singleton, wordBytes_append, wordBytes_append]
  rfl

/-! ## What the decoder does with the bytes -/

theorem needsSecondWord_bytes (ctx : DecodeCtx) (b0 b1 : Byte) : needsSecondWord ctx (b1 ++ b0) =
    ((!b1.getLsbD 6 || ctx.millicode) && (b1.getLsbD 7 || ctx.opmsb) && b1.extractLsb' 0 6 == 0x0B) := by
  rw [needsSecondWord, ordinaryWord, opmsbEff, macroBit_bytes, opmsbBit_bytes, opField_bytes]

theorem decodeWords_bytes (ctx : DecodeCtx) (b0 b1 : Byte) (w2 : Word) : decodeWords ctx (b1 ++ b0) w2 =
    if !b1.getLsbD 6 || ctx.millicode then decodeFields ctx (b1.getLsbD 7) (b1.extractLsb' 0 6) b0 w2
    else .hardMacro (b1.getLsbD 7) (b1.extractLsb' 0 6) b0 := by
  rw [decodeWords, ordinaryWord, macroBit_bytes, opmsbBit_bytes, opField_bytes, gField_bytes]

theorem decode_oneWord {ctx : DecodeCtx} {b0 b1 : Byte} (one : needsSecondWord ctx (b1 ++ b0) = false) (rest : List Byte) :
    decode ctx (b0 :: b1 :: rest) = .ok (decodeWords ctx (b1 ++ b0) 0, rest) := by
  simp [decode, one]

theorem decode_twoWords {ctx : DecodeCtx} {b0 b1 : Byte} (two : needsSecondWord ctx (b1 ++ b0) = true) (b2 b3 : Byte)
    (rest : List Byte) :
    decode ctx (b0 :: b1 :: b2 :: b3 :: rest) = .ok (decodeWords ctx (b1 ++ b0) (b3 ++ b2), rest) := by
  simp [decode, two]

/-- What the decoder reads is one word, or two where the first asks for a second. -/
theorem decode_eq_ok {ctx : DecodeCtx} {bytes rest : List Byte} {i : Instr} (h : decode ctx bytes = .ok (i, rest)) :
    (∃ b0 b1, needsSecondWord ctx (b1 ++ b0) = false ∧ bytes = b0 :: b1 :: rest ∧ i = decodeWords ctx (b1 ++ b0) 0) ∨
    (∃ b0 b1 b2 b3, needsSecondWord ctx (b1 ++ b0) = true ∧ bytes = b0 :: b1 :: b2 :: b3 :: rest ∧
      i = decodeWords ctx (b1 ++ b0) (b3 ++ b2)) := by
  unfold decode at h
  split at h
  · next b0 b1 tail =>
    split_ifs at h with two
    · split at h
      · next b2 b3 tail2 =>
        obtain ⟨rfl, rfl⟩ : _ = i ∧ _ = rest := by simpa using h
        exact .inr ⟨b0, b1, b2, b3, two, rfl, rfl⟩
      · cases h
    · obtain ⟨rfl, rfl⟩ : _ = i ∧ _ = rest := by simpa using h
      exact .inl ⟨b0, b1, by simpa using two, rfl, rfl⟩
  · cases h

/-! ## The rows of the opcode map that split their operand values -/

/-- OP 25 below 122 (R294, R301). -/
theorem decodeJump_direct (e : Bool) (m : Fin 122) :
    decodeJump e (BitVec.ofNat 8 m.val) = some (pick e (.jmpM m) (.balM m)) := by
  have address : (BitVec.ofNat 8 m.val).toNat = m.val := Nat.mod_eq_of_lt (m.isLt.trans (by decide))
  simp [decodeJump, address]

/-- OP 25 in the upper half (R300, R307). -/
theorem decodeJump_mb (e : Bool) (m : BitVec 7) :
    decodeJump e (Operand.mb m).toByte = some (pick e (.jmpMB m) (.balMB m)) := by
  revert e m
  decide

/-- ST B at its operands (R313, R314). -/
theorem decodeStoreB_store {o : Operand} (h : o.isDirOrX = true) (e : Bool) :
    decodeStoreB e o.toByte = some (pick e (.stB o) (.stWB o)) := by
  rw [decodeStoreB, if_pos (o.isDirOrX_iff.mp h), Operand.ofByte_toByte]

/-- ZERO at its operands, whose bytes are moved up by 128 (R315, R316). -/
theorem decodeStoreB_zero {o : Operand} (h : o.isDirOrX = true) (e : Bool) :
    decodeStoreB e (o.toByte + 0x80) = some (pick e (.zero o) (.zeroW o)) := by
  have below := o.isDirOrX_iff.mp h
  have moved : (o.toByte + 0x80).toNat = o.toByte.toNat + 128 := BitVec.toNat_add_of_lt (by simp; omega)
  rw [decodeStoreB, if_neg (by omega), if_neg (by omega), if_pos (by omega), add_sub_cancel_right, Operand.ofByte_toByte]

/-- DEC away from the direct addresses that keep CF (R369, R370). -/
theorem decodeDec_of_ne {o : Operand} (h : o ≠ .dir 124 ∧ o ≠ .dir 125) (e : Bool) :
    decodeDec e o = pick e (.decM o) (.decWM o) := by
  cases o with
  | dir m =>
    have not124 : m.val ≠ 124 := fun v => h.1 (congrArg Operand.dir (Fin.ext v))
    have not125 : m.val ≠ 125 := fun v => h.2 (congrArg Operand.dir (Fin.ext v))
    exact if_pos (by omega)
  | x | ab | mb m => rfl

/-- DEC at the direct addresses that keep CF (R371). -/
theorem decodeDec_keep {m : Fin 126} (h : 124 ≤ m.val) : decodeDec false (.dir m) = .decKeep m := if_neg (by omega)

end Sys2Proof
end

section
/-! PROOFS. What the decoder reads encodes back, and what a pending OPMSB and millicode do to decoding. -/

namespace Sys2Proof

/-! ## The opcode map gives instructions of the word it reads -/

/-- An instruction is one of this word: its row lists its operand, and it encodes to the word. -/
structure IsOfWord (e : Bool) (op : BitVec 6) (g : Byte) (i : Instr) : Prop where
  wf : i.wf = true
  enc : encode i = [instrWord e op g]

section Rows

variable {e : Bool} {op : BitVec 6} {g : Byte} {i j : Instr}

theorem isOfWord_pick (h0 : IsOfWord false op g i) (h1 : IsOfWord true op g j) : IsOfWord e op g (pick e i j) := by
  cases e with
  | false => exact h0
  | true => exact h1

theorem isOfWord_low (only : onlyOpmsb0 op = true) (h : IsOfWord false op g i) : IsOfWord e op g (low e op g i) := by
  cases e with
  | false => exact h
  | true => exact ⟨only, rfl⟩

theorem isOfWord_listed {ok : Bool} (row : ok = true → IsOfWord e op g i) (unlisted : ok = false → unlistedG e op g = true) :
    IsOfWord e op g (listed ok e op g i) := by
  cases ok with
  | true => exact row rfl
  | false => exact ⟨unlisted rfl, rfl⟩

theorem isOfWord_ite {p : Prop} [Decidable p] (pos : p → IsOfWord e op g i) (neg : ¬p → IsOfWord e op g j) :
    IsOfWord e op g (if p then i else j) := iteInduction pos neg

end Rows

/-- OP 01: the table of the sub-operations against the encoder and against the table of unlisted values (R103, R105). -/
theorem isOfWord_decodeOp01 (g : Byte) : IsOfWord false 0x01 g ((decodeOp01 g).getD (.reservedG false 0x01 g)) := by
  have table : ∀ g : Byte, ((decodeOp01 g).getD (.reservedG false 0x01 g)).wf = true ∧
      encode ((decodeOp01 g).getD (.reservedG false 0x01 g)) = [instrWord false 0x01 g] := by decide
  exact ⟨(table g).1, (table g).2⟩

/-- OP 19: RETI at a direct address, the other forms being unlisted. -/
theorem isOfWord_reti (g : Byte) : IsOfWord false 0x19 g
    (if h : g.toNat < 126 then .reti ⟨g.toNat, h⟩ else .reservedG false 0x19 g) := by
  split_ifs with direct
  · have byte : BitVec.ofNat 8 g.toNat = g := BitVec.ofNat_toNat 8 g
    exact ⟨rfl, congrArg (fun g => [instrWord false 0x19 g]) byte⟩
  · have unlisted : inRange g 126 255 = true := by simp only [inRange, Bool.and_eq_true, decide_eq_true_eq]; omega
    exact ⟨unlisted, rfl⟩

/-- OP 25: words below 122, the conditions on A:B, A:B and m:B, with 126 unlisted. -/
theorem isOfWord_decodeJump (e : Bool) (o : Operand) :
    IsOfWord e 0x25 o.toByte ((decodeJump e o.toByte).getD (.reservedG e 0x25 o.toByte)) := by
  cases o with
  | dir m =>
    by_cases direct : m.val < 122
    · have jump : decodeJump e (Operand.dir m).toByte = _ := decodeJump_direct e ⟨m.val, direct⟩
      rw [jump]
      exact isOfWord_pick ⟨rfl, rfl⟩ ⟨rfl, rfl⟩
    · obtain rfl | rfl | rfl | rfl : m = 122 ∨ m = 123 ∨ m = 124 ∨ m = 125 := by omega
      all_goals exact isOfWord_pick ⟨rfl, rfl⟩ ⟨rfl, rfl⟩
  | x => exact ⟨rfl, rfl⟩
  | ab => exact isOfWord_pick ⟨rfl, rfl⟩ ⟨rfl, rfl⟩
  | mb m =>
    rw [decodeJump_mb]
    exact isOfWord_pick ⟨rfl, rfl⟩ ⟨rfl, rfl⟩

/-- OP 29: ST B, ZERO 128 above it, and the values 127 and 255 unlisted. -/
theorem isOfWord_decodeStoreB (e : Bool) (o : Operand) :
    IsOfWord e 0x29 o.toByte ((decodeStoreB e o.toByte).getD (.reservedG e 0x29 o.toByte)) := by
  by_cases store : o.isDirOrX = true
  · rw [decodeStoreB_store store]
    exact isOfWord_pick ⟨store, rfl⟩ ⟨store, rfl⟩
  obtain ⟨p, moved⟩ : ∃ p : Operand, p.toByte + 0x80 = o.toByte :=
    ⟨.ofByte (o.toByte - 0x80), by rw [Operand.toByte_ofByte, sub_add_cancel]⟩
  by_cases zero : p.isDirOrX = true
  · rw [← moved, decodeStoreB_zero zero]
    exact isOfWord_pick ⟨zero, rfl⟩ ⟨zero, rfl⟩
  · rw [Operand.isDirOrX_iff] at store zero
    obtain unlisted | unlisted : o.toByte = 127 ∨ o.toByte = 255 := by bv_omega
    all_goals
      rw [unlisted]
      cases e <;> exact ⟨rfl, rfl⟩

/-- OP 3C: DEC, with its rows that keep CF and the value those leave unlisted (R369 to R371). -/
theorem isOfWord_decodeDec (e : Bool) (o : Operand) : IsOfWord e 0x3C o.toByte (decodeDec e o) := by
  by_cases keeps : o = .dir 124 ∨ o = .dir 125
  · rcases keeps with rfl | rfl <;> cases e <;> exact ⟨rfl, rfl⟩
  · have others := not_or.mp keeps
    have wf : (o != .dir 124 && o != .dir 125) = true := by simpa using others
    rw [decodeDec_of_ne others]
    exact isOfWord_pick ⟨wf, rfl⟩ ⟨wf, rfl⟩

/-- With no OPMSB pending the opcode map gives an instruction of the word it reads, LD.T apart (R102). -/
theorem isOfWord_decodeFields (num word millicode : Bool) {e : Bool} {op : BitVec 6} (g : Byte) (w2 : Word)
    (one : (e && op == 0x0B) = false) :
    IsOfWord e op g (decodeFields { opmsb := false, num := num, word := word, millicode := millicode } e op g w2) := by
  obtain ⟨o, rfl⟩ := Operand.toByte_surjective g
  unfold decodeFields
  simp only [Bool.or_false, Operand.ofByte_toByte]
  match op with
  | 0x00 =>
    cases e with
    | false =>
      refine isOfWord_listed (fun zero => ⟨rfl, by rw [beq_iff_eq.mp zero]; rfl⟩) fun no => ?_
      simpa [unlistedG] using no
    | true => exact ⟨rfl, rfl⟩
  | 0x01 =>
    cases e with
    | false => exact isOfWord_decodeOp01 o.toByte
    | true => exact ⟨rfl, rfl⟩
  | 0x02 | 0x03 | 0x0C | 0x0D | 0x1D => exact ⟨rfl, rfl⟩
  | 0x04 | 0x18 | 0x1C => exact isOfWord_low rfl ⟨rfl, rfl⟩
  | 0x05 | 0x06 | 0x07 | 0x08 | 0x09 | 0x0A | 0x0E | 0x0F =>
    exact isOfWord_low rfl (isOfWord_ite (fun _ => ⟨rfl, rfl⟩) fun _ => ⟨rfl, rfl⟩)
  | 0x0B =>
    obtain rfl : e = false := by simpa using one
    exact isOfWord_ite (p := num = true) (fun _ => ⟨rfl, rfl⟩) fun _ => ⟨rfl, rfl⟩
  | 0x13 =>
    cases e with
    | false =>
      refine isOfWord_listed (fun ok => isOfWord_ite (p := word = true) (fun _ => ⟨ok, rfl⟩) fun _ => ⟨ok, rfl⟩) fun no => ?_
      simpa [unlistedG] using no
    | true => exact ⟨rfl, rfl⟩
  | 0x15 | 0x16 | 0x17 | 0x1A | 0x1B | 0x1E | 0x1F =>
    exact isOfWord_low rfl (isOfWord_ite (fun ab => ⟨rfl, by rw [ab]; rfl⟩) fun notAB =>
      isOfWord_ite (fun _ => ⟨bne_iff_ne.mpr notAB, rfl⟩) fun _ => ⟨bne_iff_ne.mpr notAB, rfl⟩)
  | 0x19 =>
    cases e with
    | false => exact isOfWord_reti o.toByte
    | true => exact ⟨rfl, rfl⟩
  | 0x20 | 0x21 | 0x22 | 0x23 | 0x24 =>
    exact isOfWord_ite (fun b => by rw [b]; exact isOfWord_pick ⟨rfl, rfl⟩ ⟨rfl, rfl⟩) fun n =>
      isOfWord_pick ⟨bne_iff_ne.mpr n, rfl⟩ ⟨bne_iff_ne.mpr n, rfl⟩
  | 0x25 => exact isOfWord_decodeJump e o
  | 0x26 | 0x27 =>
    exact isOfWord_listed (fun ok => isOfWord_pick ⟨ok, rfl⟩ ⟨ok, rfl⟩) fun no => by simpa [unlistedG] using no
  | 0x28 =>
    refine isOfWord_listed (fun ok => ?_) fun no => by simpa [unlistedG, or_iff_not_imp_left] using no
    have wf : (o != .dir 0 && o != .ab) = true := by simpa using ok
    exact isOfWord_pick ⟨wf, rfl⟩ ⟨wf, rfl⟩
  | 0x29 => exact isOfWord_decodeStoreB e o
  | 0x2D =>
    refine isOfWord_listed (fun ok => ?_) fun no => by simpa [unlistedG] using no
    have wf : (o != .x) = true := by simpa using ok
    exact isOfWord_pick ⟨wf, rfl⟩ ⟨wf, rfl⟩
  | 0x2F =>
    cases e with
    | false =>
      refine isOfWord_listed (fun ok => ?_) fun no => by simpa [unlistedG] using no
      have wf : (o != .dir 125) = true := by simpa using ok
      exact ⟨wf, rfl⟩
    | true =>
      refine isOfWord_listed (fun ok => ?_) fun no => by simpa [unlistedG, or_iff_not_imp_right] using no
      have wf : (o != .dir 124 && o != .dir 125) = true := by simpa [and_comm] using ok
      exact ⟨wf, rfl⟩
  | 0x34 =>
    cases e with
    | false =>
      refine isOfWord_listed (fun ok => ?_) fun no => by simpa [unlistedG] using no
      have wf : (o != .x) = true := by simpa using ok
      exact ⟨wf, rfl⟩
    | true =>
      refine isOfWord_listed (fun ok => ?_) fun no => by simpa [unlistedG, or_iff_not_imp_right] using no
      have wf : (o != .x && o != .dir 125) = true := by simpa using ok
      exact ⟨wf, rfl⟩
  | 0x3C => exact isOfWord_decodeDec e o
  | 0x10 | 0x11 | 0x12 | 0x14 | 0x2A | 0x2B | 0x2C | 0x2E | 0x30 | 0x31 | 0x32 | 0x33 | 0x35 | 0x36 | 0x37 | 0x38 | 0x39
  | 0x3A | 0x3B | 0x3D | 0x3E | 0x3F => exact isOfWord_pick ⟨rfl, rfl⟩ ⟨rfl, rfl⟩
  | ⟨⟨n + 64, big⟩⟩ => omega

/-! ## From the bytes read to the instruction -/

/-- No bit of an instruction is dropped: what is decoded is an instruction of the very bytes read. -/
theorem encodeBytes_of_decode {num word : Bool} {bytes rest : List Byte} {i : Instr}
    (h : decode { opmsb := false, num := num, word := word, millicode := false } bytes = .ok (i, rest)) :
    i.wf = true ∧ encodeBytes i ++ rest = bytes := by
  rcases decode_eq_ok h with ⟨b0, b1, one, rfl, rfl⟩ | ⟨b0, b1, b2, b3, two, rfl, rfl⟩
  · rw [needsSecondWord_bytes] at one
    rw [decodeWords_bytes]
    cases bit14 : b1.getLsbD 6 with
    | false =>
      simp only [bit14, Bool.or_false, Bool.not_false, Bool.true_and] at one
      have row := isOfWord_decodeFields num word false b0 0 one
      refine ⟨row.wf, ?_⟩
      exact congrArg (· ++ rest) ((encodeBytes_of_instrWord row.enc).trans (by rw [opByte_fields bit14]))
    | true =>
      refine ⟨rfl, ?_⟩
      exact congrArg (· ++ rest) ((encodeBytes_hardMacro _ _ _).trans (by rw [opByte_fields bit14]))
  · simp only [needsSecondWord_bytes, Bool.or_false, Bool.and_eq_true, Bool.not_eq_true', beq_iff_eq] at two
    obtain ⟨⟨bit14, bit15⟩, op⟩ := two
    have upper := opByte_fields bit14
    rw [bit15, op] at upper
    rw [decodeWords_bytes, bit14, bit15, op]
    refine ⟨rfl, ?_⟩
    exact congrArg (· ++ rest) ((encodeBytes_ldT b3 b2 b0).trans (by rw [upper]))

/-! ## A pending OPMSB (R91, R107, R178) -/

section Opmsb

variable (num word millicode : Bool) (b0 : Byte) {b1 : Byte} (rest : List Byte)

/-- An ordinary word of another OP than 01 is read as with bit 15 set. -/
theorem decode_opmsb_ordinary (ordinary : b1.getLsbD 6 = false ∨ millicode = true) (bit15 : b1.getLsbD 7 = false)
    (op : b1.extractLsb' 0 6 ≠ 0x01) :
    decode { opmsb := true, num := num, word := word, millicode := millicode } (b0 :: b1 :: rest) =
      decode { opmsb := false, num := num, word := word, millicode := millicode } (b0 :: (b1 ||| 0x80) :: rest) := by
  have set15 : (b1 ||| 0x80).getLsbD 7 = true := by simp
  have same14 : (b1 ||| 0x80).getLsbD 6 = b1.getLsbD 6 := by simp
  have sameOp : (b1 ||| 0x80).extractLsb' 0 6 = b1.extractLsb' 0 6 := by
    rw [BitVec.extractLsb'_or]; exact BitVec.or_zero
  have runs : (!b1.getLsbD 6 || millicode) = true := by simpa using ordinary
  refine decode_congr rest ?_ fun w2 => ?_
  · rw [needsSecondWord_bytes, needsSecondWord_bytes, set15, same14, sameOp, bit15]
    rfl
  · rw [decodeWords_bytes, decodeWords_bytes, set15, same14, sameOp, bit15, if_pos runs, if_pos runs]
    exact decodeFields_opmsb num word millicode _ b0 w2 op

/-- An ordinary word of OP 01 stays OPMSB or is reserved. -/
theorem decode_opmsb_op01 (ordinary : b1.getLsbD 6 = false ∨ millicode = true) (bit15 : b1.getLsbD 7 = false)
    (op : b1.extractLsb' 0 6 = 0x01) :
    decode { opmsb := true, num := num, word := word, millicode := millicode } (b0 :: b1 :: rest) =
      .ok (if b0 = 0xEF then .opmsb else .reservedOpmsb 0x01 b0, rest) := by
  have runs : (!b1.getLsbD 6 || millicode) = true := by simpa using ordinary
  refine (decode_oneWord ?_ rest).trans ?_
  · rw [needsSecondWord_bytes, op]
    exact Bool.and_false _
  · rw [decodeWords_bytes, bit15, op, if_pos runs]
    simp [decodeFields]

/-- A word with bit 15 set and a hard macro are read as without it. -/
theorem decode_opmsb_idle (idle : ¬(b1.getLsbD 6 = false ∨ millicode = true) ∨ b1.getLsbD 7 = true) :
    decode { opmsb := true, num := num, word := word, millicode := millicode } (b0 :: b1 :: rest) =
      decode { opmsb := false, num := num, word := word, millicode := millicode } (b0 :: b1 :: rest) := by
  rcases idle with enters | bit15
  · have stays : (!b1.getLsbD 6 || millicode) = false := by simpa [not_or] using enters
    refine decode_congr rest ?_ fun w2 => ?_
    · rw [needsSecondWord_bytes, needsSecondWord_bytes, stays]
      rfl
    · rw [decodeWords_bytes, decodeWords_bytes, stays]
      rfl
  · refine decode_congr rest ?_ fun w2 => ?_
    · rw [needsSecondWord_bytes, needsSecondWord_bytes, bit15]
      rfl
    · rw [decodeWords_bytes, decodeWords_bytes, bit15]
      rfl

/-- LD X becomes LD.T, with its second word. -/
theorem decode_opmsb_ldX (n hh uu : Byte) :
    decode { opmsb := true, num := num, word := word, millicode := millicode } (n :: 0x0B :: hh :: uu :: rest) =
      .ok (.ldT (uu ++ hh ++ n), rest) := by
  refine (decode_twoWords ?_ hh uu rest).trans ?_
  · rw [needsSecondWord_bytes]; rfl
  · rw [decodeWords_bytes]; rfl

end Opmsb

/-! ## Millicode (R92, R393) -/

section Millicode

variable (opmsb num word : Bool) (b0 : Byte) {b1 : Byte} (rest : List Byte)

/-- A word with bit 14 set is read in millicode as the ordinary word with that bit clear. -/
theorem decode_millicode_bit14 (bit14 : b1.getLsbD 6 = true) :
    decode { opmsb := opmsb, num := num, word := word, millicode := true } (b0 :: b1 :: rest) =
      decode { opmsb := opmsb, num := num, word := word, millicode := false } (b0 :: (b1 &&& 0xBF) :: rest) := by
  have same15 : (b1 &&& 0xBF).getLsbD 7 = b1.getLsbD 7 := by simp
  have clear14 : (b1 &&& 0xBF).getLsbD 6 = false := by simp
  have sameOp : (b1 &&& 0xBF).extractLsb' 0 6 = b1.extractLsb' 0 6 := by
    rw [BitVec.extractLsb'_and]; exact BitVec.and_allOnes
  refine decode_congr rest ?_ fun w2 => ?_
  · rw [needsSecondWord_bytes, needsSecondWord_bytes, same15, clear14, sameOp, bit14]
    rfl
  · rw [decodeWords_bytes, decodeWords_bytes, same15, clear14, sameOp, bit14]
    rfl

/-- A word with bit 14 clear is read in millicode as outside it. -/
theorem decode_millicode_clear (clear14 : b1.getLsbD 6 = false) :
    decode { opmsb := opmsb, num := num, word := word, millicode := true } (b0 :: b1 :: rest) =
      decode { opmsb := opmsb, num := num, word := word, millicode := false } (b0 :: b1 :: rest) := by
  refine decode_congr rest ?_ fun w2 => ?_
  · rw [needsSecondWord_bytes, needsSecondWord_bytes, clear14]
    rfl
  · rw [decodeWords_bytes, decodeWords_bytes, clear14]
    rfl

end Millicode

/-- Settles O2: no bit is dropped by `encodeBytes_of_decode`; a pending OPMSB by what it meets, and millicode by bit 14. -/
theorem encodeInvertsDecode : Obligations.EncodeInvertsDecode := by
  refine ⟨fun _ _ _ _ _ read => encodeBytes_of_decode read, fun num word millicode b0 b1 rest => ?opmsb,
    fun opmsb num word b0 b1 rest => ?millicode⟩
  case opmsb =>
    exact ⟨decode_opmsb_ordinary num word millicode b0 rest, decode_opmsb_op01 num word millicode b0 rest,
      decode_opmsb_idle num word millicode b0 rest, decode_opmsb_ldX num word millicode rest⟩
  case millicode =>
    exact ⟨decode_millicode_bit14 opmsb num word b0 rest, decode_millicode_clear opmsb num word b0 rest⟩

end Sys2Proof
end

section
/-! PROOFS. An instruction is decoded from its encoding: the rows of the opcode map at the fields of each instruction. -/

namespace Sys2Proof

/-! ## From the fields of an encoding to what its bytes decode to -/

/-- Of the OP codes only 0B has an instruction of two words (R94). -/
theorem oneWord_of_ne {ctx : DecodeCtx} {e : Bool} {op : BitVec 6} (h : op ≠ 0x0B) :
    ((e || ctx.opmsb) && op == 0x0B) = false := by
  rw [beq_eq_false_iff_ne.mpr h, Bool.and_false]

/-- An instruction of one word is read back from its bytes where the opcode map gives it for its fields. -/
theorem decode_of_row {ctx : DecodeCtx} {i : Instr} {e : Bool} {op : BitVec 6} {g : Byte} (rest : List Byte)
    (enc : encode i = [instrWord e op g]) (dec : decodeFields ctx e op g 0 = i)
    (one : ((e || ctx.opmsb) && op == 0x0B) = false := by rfl) :
    decode ctx (encodeBytes i ++ rest) = .ok (i, rest) := by
  rw [encodeBytes_of_instrWord enc]
  refine (decode_oneWord ?_ rest).trans ?_
  · rw [needsSecondWord_bytes]
    simpa using one
  · rw [decodeWords_bytes]
    simpa using dec

/-- A row whose operand is any form: its encoding and its decoding name the same OP code and opmsb. -/
theorem decode_of_operandRow {ctx : DecodeCtx} {row : Operand → Instr} {e : Bool} {op : BitVec 6} (rest : List Byte)
    (enc : ∀ o, encode (row o) = [instrWord e op o.toByte]) (dec : ∀ g, decodeFields ctx e op g 0 = row (.ofByte g))
    (o : Operand) (one : ((e || ctx.opmsb) && op == 0x0B) = false := by rfl) :
    decode ctx (encodeBytes (row o) ++ rest) = .ok (row o, rest) :=
  decode_of_row rest (enc o) (by rw [dec, Operand.ofByte_toByte]) one

/-- A row that splits its operand values is read back where its part gives the instruction. -/
theorem decode_of_splitRow {ctx : DecodeCtx} {i d : Instr} {r : Option Instr} {e : Bool} {op : BitVec 6} {g : Byte}
    (rest : List Byte) (enc : encode i = [instrWord e op g]) (part : r = some i)
    (dec : decodeFields ctx e op g 0 = r.getD d := by rfl) (one : ((e || ctx.opmsb) && op == 0x0B) = false := by rfl) :
    decode ctx (encodeBytes i ++ rest) = .ok (i, rest) :=
  decode_of_row rest enc (dec.trans (by rw [part]; rfl)) one

theorem decode_hardMacro (bit15 : Bool) (op : BitVec 6) (g : Byte) (rest : List Byte) :
    decode {} (encodeBytes (.hardMacro bit15 op g) ++ rest) = .ok (.hardMacro bit15 op g, rest) := by
  rw [encodeBytes_hardMacro]
  refine (decode_oneWord ?_ rest).trans ?_
  · simp [needsSecondWord_bytes]
  · simp [decodeWords_bytes]

theorem decode_ldT (nnn : Triple) (rest : List Byte) : decode {} (encodeBytes (.ldT nnn) ++ rest) = .ok (.ldT nnn, rest) := by
  obtain ⟨uu, hh, n, rfl⟩ : ∃ uu hh n : Byte, uu ++ hh ++ n = nnn := by
    have upper : nnn.extractLsb' 16 8 ++ nnn.extractLsb' 8 8 = nnn.extractLsb' 8 16 :=
      BitVec.extractLsb'_append_extractLsb'_eq_extractLsb' rfl
    have whole : nnn.extractLsb' 8 16 ++ nnn.extractLsb' 0 8 = nnn :=
      (BitVec.extractLsb'_append_extractLsb'_eq_extractLsb' rfl).trans BitVec.extractLsb'_eq_self
    exact ⟨_, _, _, (congrArg (· ++ nnn.extractLsb' 0 8) upper).trans whole⟩
  rw [encodeBytes_ldT]
  refine (decode_twoWords ?_ hh uu rest).trans ?_
  · rw [needsSecondWord_bytes]; rfl
  · rw [decodeWords_bytes]; rfl

/-! ## The sub-operations of OP 01 with a number in g (R103) -/

theorem decodeOp01_usermode (k : BitVec 1) : decodeOp01 (0x30 + k.setWidth 8) = some (.usermode k) := by revert k; decide
theorem decodeOp01_offset (k : BitVec 2) : decodeOp01 (0x40 + k.setWidth 8) = some (.offset k) := by revert k; decide
theorem decodeOp01_clear (k : BitVec 4) : decodeOp01 (0x6#4 ++ k) = some (.clear k) := by revert k; decide
theorem decodeOp01_byteswap (r : BitVec 4) : decodeOp01 (0xA#4 ++ r) = some (.byteswap r) := by revert r; decide
theorem decodeOp01_int (k : BitVec 4) : decodeOp01 (0xD#4 ++ k) = some (.int k) := by revert k; decide

/-! ## The reserved and unused encodings (R104, R105, R107) -/

/-- The sub-operations and the table of unlisted values have no value of g in common. -/
theorem decodeOp01_of_unlisted {g : Byte} (h : unlistedOp01 g = true) : decodeOp01 g = none := by
  revert g
  decide

/-- Where the row lists the operand values it is for, every other value is the reserved encoding (R105). -/
theorem decodeFields_of_unlistedG {e : Bool} {op : BitVec 6} {g : Byte} (h : unlistedG e op g = true) :
    decodeFields {} e op g 0 = .reservedG e op g := by
  unfold unlistedG at h
  split at h
  case h_1 code =>
    rw [eq_ofNat_of_toNat_eq code]
    exact if_neg (by simpa using h)
  case h_2 code =>
    rw [eq_ofNat_of_toNat_eq code]
    exact congrArg (·.getD (.reservedG false 0x01 g)) (decodeOp01_of_unlisted h)
  case h_4 code =>
    rw [eq_ofNat_of_toNat_eq code]
    simp only [inRange, Bool.and_eq_true, decide_eq_true_eq] at h
    exact dif_neg (by omega)
  case h_3 code | h_11 code | h_13 code | h_15 code =>
    rw [eq_ofNat_of_toNat_eq code, beq_iff_eq.mp h]
    rfl
  case h_5 e _ _ code | h_6 e _ _ code | h_7 e _ _ code | h_10 e _ _ code =>
    rw [eq_ofNat_of_toNat_eq code, beq_iff_eq.mp h]
    cases e <;> rfl
  case h_8 e _ _ code | h_9 e _ _ code =>
    rw [Bool.or_eq_true, beq_iff_eq, beq_iff_eq] at h
    rw [eq_ofNat_of_toNat_eq code]
    rcases h with rfl | rfl <;> cases e <;> rfl
  case h_12 code | h_14 code =>
    rw [Bool.or_eq_true, beq_iff_eq, beq_iff_eq] at h
    rw [eq_ofNat_of_toNat_eq code]
    rcases h with rfl | rfl <;> rfl
  case h_16 => cases h

theorem decodeFields_of_onlyOpmsb0 {op : BitVec 6} (h : onlyOpmsb0 op = true) (g : Byte) :
    decodeFields {} true op g 0 = .reservedOpmsb op g := by
  simp only [onlyOpmsb0, decide_eq_true_eq, List.mem_cons, List.not_mem_nil, or_false] at h
  rcases h with rfl | rfl | rfl | rfl | rfl | rfl | rfl | rfl | rfl | rfl | rfl | rfl | rfl | rfl | rfl | rfl | rfl | rfl |
    rfl | rfl | rfl <;> rfl

theorem decodeFields_of_unusedCode {op : BitVec 6} (h : unusedCode op = true) (e : Bool) (g : Byte) :
    decodeFields {} e op g 0 = .unusedOp e op g := by
  simp only [unusedCode, decide_eq_true_eq, List.mem_cons, List.not_mem_nil, or_false] at h
  rcases h with rfl | rfl | rfl | rfl | rfl <;> cases e <;> rfl

/-- Settles O1: each row by its OP code. An operand of any form is read back from its byte; where a row splits its operand
values, well-formedness says the instruction is on its own side. -/
theorem decodeInvertsEncode : Obligations.DecodeInvertsEncode := by
  intro i rest wf
  cases i with
  -- no operand, or g taken whole
  | nop | mulx | getpc | getmc | setpc | addABXC | nibble | setmc | addABC | wshl | clc | cpuinforst | cpuinfoinc | cpuinfoget
  | mul | ldAB | ldBA | swapAB | ldCA | ldABCA | ldBACA | ldABBACA | ldAC | ldBC | ldACBC | ldCB | ldACCB | swapBC | ldACBCCB
  | incB | incX | incBX | incBXm | dincB | dincX | dincBX | dincBXm | decB | decX | decBX | decBXp | ddecB | ddecX | ddecBX
  | ddecBXp | ldXAB | ldXAC | disable | enable | getstat | opmsb | inputa | outputb | inout
  | andAC | xorAC | orAC | addAC | addcAC | subAC | subcAC | jrB | brB | jrc0B | brc0B | jrc1B | brc1B | jrz0B | brz0B | jrz1B
  | brz1B | jmpc0 | jmpc1 | jmpz0 | jmpz1 | jmpAB | balc0 | balc1 | balz0 | balz1 | balAB | decWKeep => exact decode_of_row rest rfl rfl
  | num n | andAn n | nAndAnn n | xorAn n | nXorAnn n | orAn n | nOrAnn n | ldAn n | nLdAnn n | ldBn n | nLdBnn n | ldCn n
  | nLdCnn n | ldXn n | nLdXnn n | addAn n | nAddAnn n | addcAn n | nAddcAnn n => exact decode_of_row rest rfl rfl
  | ldT nnn => exact decode_ldT nnn rest
  -- the sub-operations of OP 01 with a number in g
  | usermode k => exact decode_of_splitRow rest rfl (decodeOp01_usermode k)
  | offset k => exact decode_of_splitRow rest rfl (decodeOp01_offset k)
  | clear k => exact decode_of_splitRow rest rfl (decodeOp01_clear k)
  | byteswap r => exact decode_of_splitRow rest rfl (decodeOp01_byteswap r)
  | int k => exact decode_of_splitRow rest rfl (decodeOp01_int k)
  -- an operand of any form
  | ldA o | ldWA o | ldB o | ldWB o | ldC o | ldWC o | ldWX o | word o | wordx o | setflag o | out o | stC o | stWC o
  | getflag o | getflagW o | inp o | inpW o | dincM o | dincWM o | shl o | shlW o | shlc o | shlcW o | shr o | shrW o | shrc o
  | shrcW o | andM o | andWM o | xorM o | xorWM o | orM o | orWM o | incM o | incWM o | inccM o | inccWM o | addM o | addWM o
  | addcM o | addcWM o | deccM o | deccWM o | subM o | subWM o | subcM o | subcWM o =>
    exact decode_of_operandRow rest (fun _ => rfl) (fun _ => rfl) o
  -- an operand of the forms the row lists
  | andA o | wAndA o | xorA o | wXorA o | orA o | wOrA o | addA o | wAddA o | addcA o | wAddcA o | subA o | wSubA o | subcA o
  | wSubcA o =>
    have notAB : o ≠ .ab := bne_iff_ne.mp wf
    exact decode_of_row rest rfl (by simp [decodeFields, low, accRow, Instr.context, Operand.ofByte_toByte, notAB])
  | ldX o | wLdX o | stX o | stTX o | ddecM o | mov o =>
    have other := bne_iff_ne.mp wf
    exact decode_of_row rest rfl (by simp [decodeFields, pick, listed, Instr.context, Operand.ofByte_toByte, other])
  | stA o | stWA o | ddecWM o | movW o =>
    have others := (Bool.and_eq_true_iff.mp wf).imp bne_iff_ne.mp bne_iff_ne.mp
    exact decode_of_row rest rfl (by simp [decodeFields, pick, listed, Instr.context, Operand.ofByte_toByte, others])
  | stB o | stWB o => exact decode_of_splitRow rest rfl (decodeStoreB_store wf _)
  | zero o | zeroW o => exact decode_of_splitRow rest rfl (decodeStoreB_zero wf _)
  | decM o | decWM o =>
    have others := (Bool.and_eq_true_iff.mp wf).imp bne_iff_ne.mp bne_iff_ne.mp
    exact decode_of_row rest rfl ((congrArg (decodeDec _) o.ofByte_toByte).trans (decodeDec_of_ne others _))
  | decKeep m =>
    have keeps : 124 ≤ m.val := of_decide_eq_true wf
    exact decode_of_row rest rfl ((congrArg (decodeDec false) (Operand.dir m).ofByte_toByte).trans (decodeDec_keep keeps))
  | reti m =>
    have direct : (Operand.dir m).toByte.toNat < 126 := (Operand.toNat_toByte_dir m).trans_lt m.isLt
    exact decode_of_row rest rfl ((dif_pos direct).trans (congrArg Instr.reti (Fin.ext (Operand.toNat_toByte_dir m))))
  -- branches
  | jrN n | brN n | jrc0N n | brc0N n | jrc1N n | brc1N n | jrz0N n | brz0N n | jrz1N n | brz1N n =>
    exact decode_of_row rest rfl (if_neg (bne_iff_ne.mp wf))
  | loopinc n | loopincW n | loopdec n | loopdecW n => exact decode_of_row rest rfl (if_pos wf)
  | jmpM m | balM m => exact decode_of_splitRow rest rfl (decodeJump_direct _ m)
  | jmpMB m | balMB m => exact decode_of_splitRow rest rfl (decodeJump_mb _ m)
  -- hard macros and the encodings without a meaning
  | hardMacro bit15 op g => exact decode_hardMacro bit15 op g rest
  | reservedG e op g =>
    exact decode_of_row rest rfl (decodeFields_of_unlistedG wf) (oneWord_of_ne (by rintro rfl; cases wf))
  | reservedOpmsb op g =>
    exact decode_of_row rest rfl (decodeFields_of_onlyOpmsb0 wf g) (oneWord_of_ne (by rintro rfl; cases wf))
  | unusedOp e op g =>
    exact decode_of_row rest rfl (decodeFields_of_unusedCode wf e g) (oneWord_of_ne (by rintro rfl; cases wf))

end Sys2Proof
end

section
/-! PROOFS. Words of each family, interrupts held off, encodings without a meaning, and what the pending prefixes and the end of
a macro refuse. -/

namespace Sys2Proof.Machine

/-! ## What stops a step before its instruction runs -/

/-- An instruction the pending prefixes refuse stops before it runs. -/
theorem runInstr_of_prefixFault {i : Instr} {ends : Bool} {s : State} {f : Fault} (h : prefixFault i s = some f) :
    runInstr i ends s = .fault f := by
  rw [runInstr, h]

/-- An instruction that may not end a macro stops before it runs. -/
theorem runInstr_of_endFault {i : Instr} {s : State} {f : Fault} (allowed : prefixFault i s = none)
    (h : endFault i s = some f) : runInstr i true s = .fault f := by
  rw [runInstr, allowed, if_pos rfl, h]

/-! ## Branches that fall through, and SETPC, at the end of a macro -/

theorem mayEndMacro_of_endFault {i : Instr} {s : State} (h : endFault i s = none) : MayEndMacro i s := by
  rcases endFault_cases i s with ⟨stop, _⟩ | ⟨stop, _⟩ | ⟨_, may⟩
  · rw [h] at stop; cases stop
  · rw [h] at stop; cases stop
  · exact may

/-- A branch of OP 20 to 27 is no prefix, nor SETMC, SETFLAG or INT, and always has a next state. -/
theorem branch_of_fallsThrough {i : Instr} {s : State} (h : FallsThrough i s) :
    ¬IsPrefix i ∧ ¬NeverEndsMacro i ∧ ∀ v, ∃ t, exec i v = .next t := by
  rw [← isPrefixInstr_iff, ← neverEndsMacro_iff]
  obtain ⟨n, h⟩ := h
  rcases h with ⟨_, hi⟩ | ⟨_, hi⟩ | ⟨_, hi⟩ | ⟨_, hi⟩ | ⟨_, hi⟩ <;>
    simp only [List.mem_cons, List.not_mem_nil, or_false] at hi <;>
    rcases hi with rfl | rfl | rfl | rfl | rfl | rfl <;>
    exact ⟨Bool.false_ne_true, Bool.false_ne_true, fun v => ⟨_, rfl⟩⟩

/-- SETPC and a branch not taken may end a macro, and always have a next state. -/
theorem endsMacro_and_goesOn {i : Instr} {s : State} (h : i = .setpc ∨ FallsThrough i s) :
    MayEndMacro i s ∧ ∀ v, ∃ t, exec i v = .next t := by
  rcases h with rfl | falls
  · exact ⟨mayEndMacro_of_endFault rfl, fun v => ⟨_, rfl⟩⟩
  · obtain ⟨notPrefix, notNever, goesOn⟩ := branch_of_fallsThrough falls
    exact ⟨⟨notPrefix, notNever, not_branches_of_fallsThrough falls⟩, goesOn⟩

/-- An instruction that may end a macro enters no interrupt. -/
theorem exec_keeps_outside {i : Instr} {s u t : State} (may : MayEndMacro i s) (outside : u.inInt = false)
    (ht : exec i u = .next t) : t.inInt = false := by
  by_contra inside
  obtain ⟨k, rfl⟩ := (onlyRetiLeavesAnInterrupt i u t ht).2 outside (Bool.not_eq_false _ ▸ inside)
  exact may.2.1 (.inr (.inr ⟨k, rfl⟩))

/-- Settles O6: what the checks on the prefixes and on the end of a macro answer is what the step comes to; where both pass it
is the instruction's. -/
theorem macroEndRefusesBranchesAndPrefixes : Obligations.MacroEndRefusesBranchesAndPrefixes := by
  rintro s u bytes rest i rfl due fetched decoded
  have run := (step_eq_runNext due).trans (runNext_eq fetched decoded)
  have stops {f : Fault} (h : prefixFault i (takeRequests s) = some f) : step s = .fault f :=
    run.trans (runInstr_of_prefixFault ((prefixFault_advance ..).trans h))
  refine ⟨fun enters outside pending => stops (prefixFault_hardMacro enters outside pending), fun meaning noMacro => ?prefixes,
    fun allowed ends => ?macroEnd⟩
  case prefixes =>
    exact ⟨fun num other => stops (prefixFault_num meaning noMacro num other),
      fun num word onC => stops (prefixFault_word_registerC meaning noMacro num word onC),
      fun word other notC => stops (prefixFault_word meaning noMacro word other notC),
      fun pmem word other => stops (prefixFault_pmemacc meaning noMacro pmem word other)⟩
  case macroEnd =>
    have passes := (prefixFault_advance i bytes.length _).trans (prefixFault_eq_none allowed)
    rw [(endsMacro_iff fetched).mpr ends] at run
    have endStops {f : Fault} (h : endFault i (takeRequests s) = some f) : step s = .fault f :=
      run.trans (runInstr_of_endFault passes ((endFault_advance ..).trans h))
    have endRuns (may : MayEndMacro i (takeRequests s)) : StepIs i True s (advance bytes.length (takeRequests s)) := by
      simpa using stepIs_runInstr run passes fun _ => (endFault_advance ..).trans (endFault_eq_none may)
    refine ⟨fun isPrefix => endStops (endFault_isPrefix isPrefix _), fun never => endStops (endFault_never never), endRuns,
      fun falls => ?_⟩
    obtain ⟨may, goesOn⟩ := endsMacro_and_goesOn falls
    obtain ⟨t, ht⟩ := goesOn (advance bytes.length (takeRequests s))
    obtain ⟨w, hw, frame, _, _, _, _, _, _, ended, _⟩ := (endRuns may).1 t ht
    have outside : t.inInt = false := exec_keeps_outside may (by simpa using ends.2.1) ht
    exact ⟨may, w, hw, ended trivial, (congrArg State.inInt frame).trans outside⟩

/-- Settles O16: where no interrupt is due none is taken. -/
theorem noInterruptWhileHeldOff : Obligations.NoInterruptWhileHeldOff := fun _ => step_eq_runNext

/-- Settles O53: the meaning of each of them is its fault. -/
theorem encodingsWithoutMeaningStop : Obligations.EncodingsWithoutMeaningStop := fun _ _ _ _ _ => ⟨rfl, rfl, rfl, rfl⟩

/-- A row's bits are read as the instruction they are the encoding of, where that stands alone. -/
theorem decodeTableWord_of_encodeBytes {nbits w : Nat} {i : Instr} {rest : List Byte} (wf : i.wf = true)
    (alone : i.context = {}) (bytes : tableBytes nbits w = encodeBytes i ++ rest) : decodeTableWord nbits w = some i := by
  rw [decodeTableWord, bytes, ← alone, decodeInvertsEncode i rest wf]

/-- Settles O3: each word is the encoding of its instruction. -/
theorem sampleWordsDecode : Obligations.SampleWordsDecode := by
  unfold Obligations.SampleWordsDecode
  and_intros <;> exact decodeTableWord_of_encodeBytes rfl rfl rfl

end Sys2Proof.Machine
end

section
/-! PROOFS. What MOV, OUT, the prefixes, IN, SETFLAG, RETI, the hard macros and MULX leave unchanged, each from what it answers
where it goes on. -/

namespace Sys2Proof.Machine

/-! ## What the instructions answer -/

/-- SETFLAG that goes on has read its byte and loaded the flags from it (R252). -/
theorem execSetflag_eq_next {o : Operand} {s t : State} (h : execSetflag o s = .next t) :
    ∃ v u, readByte o s = .ok (v, u) ∧ t = loadFlags v u := by
  unfold execSetflag at h
  split at h
  · cases h
  · next v u read =>
    split_ifs at h
    cases h
    exact ⟨v, u, read, rfl⟩

/-- RETI that goes on has left the interrupt with a byte it read, which leaves all else (R253, R70). -/
theorem execReti_eq_next {m : Fin 126} {s t : State} (h : execReti m s = .next t) : ∃ v, t = leaveInterrupt v s := by
  obtain ⟨v, u, read, rfl⟩ := Res.finish_next (eq_next_of_ite h)
  obtain rfl : u = s := readByteAt_direct read
  exact ⟨v, rfl⟩

/-- A hard macro entry that goes on has stored its operand, and entered the routine (R391). -/
theorem execHardMacro_eq_next {e : Bool} {op : BitVec 6} {g : Byte} {s t : State} (h : execHardMacro e op g s = .next t) :
    ∃ w u, writeByteAt false (ea (.dir 0) s) g s = .ok (w, u) ∧
      t = { setMC (macroEntry op s) u with c := g.setWidth 16, mf := true } := by
  unfold execHardMacro at h
  split_ifs at h
  obtain ⟨w, u, written, rfl⟩ := Res.finish_next h
  exact ⟨w, u, written, rfl⟩

/-- MULX that goes on has stored a word at direct address 0, and then written A (R122). -/
theorem execMulx_eq_next {s t : State} (h : execMulx s = .next t) :
    ∃ high low w u, writeWordAt false (ea (.dir 0) s) high s = .ok (w, u) ∧ t = { u with a := low } := by
  obtain ⟨m, u, done, rfl⟩ := Res.finish_next (eq_next_of_ite h)
  obtain ⟨m', s1, read, done⟩ := Res.andThen_eq_ok done
  obtain ⟨w, u', written, done⟩ := Res.andThen_eq_ok done
  cases done
  obtain rfl : s1 = s := readWordAt_direct read
  exact ⟨_, _, w, u, written, rfl⟩

/-! ## Frames -/

/-- A direct byte write leaves all but its byte (R70). -/
theorem writeByteAt_direct_frame {addr : Triple} {v : Byte} {s t : State} {u : Unit}
    (h : writeByteAt false addr v s = .ok (u, t)) :
    t = { s with mem := t.mem } ∧ MemoryKeptOutside [physical s addr] s t := by
  obtain ⟨frame, kept⟩ := writeByteAt_frame h
  rw [writeByteAt_direct h] at frame
  exact ⟨frame, kept⟩

/-- A direct word write leaves all but its two bytes (R70). -/
theorem writeWordAt_direct_frame {addr : Triple} {v : Word} {s t : State} {u : Unit}
    (h : writeWordAt false addr v s = .ok (u, t)) :
    t = { s with mem := t.mem } ∧ MemoryKeptOutside [physical s addr, physical s (addr + 1)] s t := by
  obtain ⟨frame, kept⟩ := writeWordAt_frame h
  rw [writeWordAt_direct h] at frame
  exact ⟨frame, kept⟩

/-- A read, and then a write that changes the bytes `ps` and AE, come to what both may change. -/
theorem read_write_frame {α β : Type} {ps : List Nat} {s t : State} {r : Res α} {c : α → State → Res β}
    (reads : ReadsOnly s r)
    (writes : ∀ v b n w u, c v { s with ae := b, draws := n } = .ok (w, u) →
      u = { s with mem := u.mem, ae := u.ae, draws := n } ∧ MemoryKeptOutside ps s u)
    (h : Res.finish (Res.andThen r c) (fun _ u => u) = .next t) :
    t = { s with mem := t.mem, ae := t.ae, draws := t.draws } ∧ MemoryKeptOutside ps s t := by
  obtain ⟨w, t, done, rfl⟩ := Res.finish_next h
  obtain ⟨v, s1, read, written⟩ := Res.andThen_eq_ok done
  rw [reads v s1 read] at written
  obtain ⟨frame, kept⟩ := writes v _ _ w t written
  exact ⟨by rw [frame], kept⟩

theorem execMov_frame {o : Operand} {s t : State} (h : execMov o s = .next t) :
    t = { s with mem := t.mem, ae := t.ae, draws := t.draws } ∧ MemoryKeptOutside [physical s s.x] s t :=
  read_write_frame (c := fun v u => writeByte .x v u) (readsOnly_readByteAt _ _ s)
    (fun _ _ _ _ _ written => writeByteAt_frame written) h

theorem execMovW_frame {o : Operand} {s t : State} (h : execMovW o s = .next t) :
    t = { s with mem := t.mem, ae := t.ae, draws := t.draws } ∧
      MemoryKeptOutside [physical s s.x, physical s (s.x + 1)] s t :=
  read_write_frame (c := fun v u => writeWord .x v u) (readsOnly_readWordAt _ _ s)
    (fun _ _ _ _ _ written => writeWordAt_frame written) h

/-- OUT reads, and no byte of memory is written (R260). -/
theorem execOut_frame {o : Operand} {s t : State} (h : execOut o s = .next t) :
    t = { s with ioLog := t.ioLog, cf := t.cf, zf := t.zf, ae := t.ae, draws := t.draws } := by
  obtain ⟨v, b, n, rfl⟩ := finish_readsOnly (readsOnly_readByteAt _ _ s) h
  rfl

/-- WORD and WORDX read their word into WORDP (R240, R241). -/
theorem wordPrefix_frame {o : Operand} {k : WordKind} {s t : State}
    (h : Res.finish (readWord o s) (fun v u => { u with wordV := v, wordG := o.toByte, wordK := k }) = .next t) :
    t = { s with wordV := t.wordV, wordG := t.wordG, wordK := t.wordK, ae := t.ae, draws := t.draws } := by
  obtain ⟨v, b, n, rfl⟩ := finish_readsOnly (readsOnly_readWordAt _ _ s) h
  rfl

/-- IN is a store after the port's answer is taken (R321). -/
theorem execInp_frame {o : Operand} {s t : State} (h : execInp o s = .next t) :
    t = { s with mem := t.mem, inputs := t.inputs, ioLog := t.ioLog, ae := t.ae, draws := t.draws } ∧
      MemoryKeptOutside [physical s (ea o s)] s t := by
  obtain ⟨frame, kept⟩ := storeByte_frame h
  exact ⟨by rw [frame]; rfl, kept⟩

theorem execInpW_frame {o : Operand} {s t : State} (h : execInpW o s = .next t) :
    t = { s with mem := t.mem, inputs := t.inputs, ioLog := t.ioLog, ae := t.ae, draws := t.draws } ∧
      MemoryKeptOutside [physical s (ea o s), physical s (ea o s + 1)] s t := by
  obtain ⟨frame, kept⟩ := storeWord_frame h
  exact ⟨by rw [frame]; rfl, kept⟩

/-- SETFLAG changes the flag register, and what its read may change. -/
theorem execSetflag_frame {o : Operand} {s t : State} (h : execSetflag o s = .next t) :
    t = { s with zf := t.zf, mf := t.mf, uf := t.uf, off := t.off, cf := t.cf, ae := t.ae, draws := t.draws } := by
  obtain ⟨v, u, read, rfl⟩ := execSetflag_eq_next h
  rw [readByteAt_frame read]
  rfl

/-- RETI changes the flag register and IF. -/
theorem execReti_frame {m : Fin 126} {s t : State} (h : execReti m s = .next t) :
    t = { s with zf := t.zf, mf := t.mf, uf := t.uf, off := t.off, cf := t.cf, inInt := false } := by
  obtain ⟨v, rfl⟩ := execReti_eq_next h
  rfl

/-- A hard macro entry changes the byte at direct address 0, C, MC and MF. -/
theorem execHardMacro_frame {e : Bool} {op : BitVec 6} {g : Byte} {s t : State} (h : execHardMacro e op g s = .next t) :
    t = { s with mem := t.mem, c := t.c, mc := t.mc, mf := true } ∧
      MemoryKeptOutside [physical s (ea (.dir 0) s)] s t := by
  obtain ⟨w, u, written, rfl⟩ := execHardMacro_eq_next h
  obtain ⟨frame, kept⟩ := writeByteAt_direct_frame written
  exact ⟨by rw [frame]; rfl, kept⟩

/-- MULX changes the word at direct address 0 and A. -/
theorem execMulx_frame {s t : State} (h : execMulx s = .next t) :
    t = { s with mem := t.mem, a := t.a } ∧
      MemoryKeptOutside [physical s (ea (.dir 0) s), physical s (ea (.dir 0) s + 1)] s t := by
  obtain ⟨high, low, w, u, written, rfl⟩ := execMulx_eq_next h
  obtain ⟨frame, kept⟩ := writeWordAt_direct_frame written
  exact ⟨by rw [frame], kept⟩

/-- Settles O59: the frame of each of the instructions. -/
theorem otherFrames : Obligations.OtherFrames := by
  intro o s t
  simp only [List.forall_mem_cons, List.not_mem_nil, false_imp_iff, implies_true, and_true]
  exact ⟨execMov_frame, execMovW_frame, execOut_frame, ⟨wordPrefix_frame, wordPrefix_frame⟩, execInp_frame, execInpW_frame,
    execSetflag_frame, fun _ => execReti_frame, fun e _ _ => execHardMacro_frame (e := e), execMulx_frame⟩

end Sys2Proof.Machine
end

section
/-! PROOFS. Pending causes: what every instruction but CLEAR does to AE and the external latches, and what CLEAR and INT do. -/

namespace Sys2Proof.Machine

/-! ## Keeping the pending causes -/

/-- The causes that may be pending: the access error and the two external latches (R404). -/
def causes (s : State) : Bool × Bool × Bool := (s.ae, s.int0, s.int1)

/-- Going from `s` to `t` leaves every pending cause pending: AE may be set (R70), the external latches are left. -/
structure KeepsCauses (s t : State) : Prop where
  ae : s.ae = true → t.ae = true
  int0 : t.int0 = s.int0
  int1 : t.int1 = s.int1

theorem keepsCauses_of_eq {s t : State} (h : causes t = causes s) : KeepsCauses s t := by
  simp only [causes, Prod.mk.injEq] at h
  obtain ⟨ae, int0, int1⟩ := h
  exact ⟨ae.trans, int0, int1⟩

theorem KeepsCauses.trans {s t u : State} (h : KeepsCauses s t) (k : KeepsCauses t u) : KeepsCauses s u :=
  ⟨k.ae ∘ h.ae, k.int0.trans h.int0, k.int1.trans h.int1⟩

/-- However an operation goes on from `s`, the pending causes stay pending. -/
def ResKeepsCauses {α : Type} (s : State) (r : Res α) : Prop := ∀ v t, r = .ok (v, t) → KeepsCauses s t

theorem resKeepsCauses_ok {α : Type} (s : State) (v : α) : ResKeepsCauses s (.ok (v, s)) := by
  rintro _ _ ⟨⟩; exact keepsCauses_of_eq rfl

theorem resKeepsCauses_error {α : Type} (s : State) (f : Fault) : ResKeepsCauses s (.error f : Res α) := by
  intro v t h; cases h

theorem resKeepsCauses_ite {α : Type} {s : State} {p : Prop} [Decidable p] {a b : Res α} (ha : ResKeepsCauses s a)
    (hb : ResKeepsCauses s b) : ResKeepsCauses s (if p then a else b) := by split_ifs <;> assumption

theorem resKeepsCauses_andThen {α β : Type} {s : State} {r : Res α} {k : α → State → Res β} (h : ResKeepsCauses s r)
    (hk : ∀ v u, ResKeepsCauses u (k v u)) : ResKeepsCauses s (Res.andThen r k) := by
  intro v t ht
  obtain ⟨w, u, hr, hu⟩ := Res.andThen_eq_ok ht
  exact (h w u hr).trans (hk w u v t hu)

/-- An instruction that ends with an operation, and writes no cause after it. -/
theorem keepsCauses_finish {α : Type} {s t : State} {r : Res α} {k : α → State → State} (h : ResKeepsCauses s r)
    (ht : Res.finish r k = .next t) (hk : ∀ v u, causes (k v u) = causes u) : KeepsCauses s t := by
  obtain ⟨v, u, hr, rfl⟩ := Res.finish_next ht
  exact (h v u hr).trans (keepsCauses_of_eq (hk v u))

/-- An instruction that goes on to a state it names. -/
theorem keepsCauses_of_next {s t u : State} (h : (.next u : Out) = .next t) (c : causes u = causes s) :
    KeepsCauses s t := by
  cases h; exact keepsCauses_of_eq c

/-- An instruction on a 16-bit immediate. -/
theorem keepsCauses_withImm {n : Byte} {f : Word → State → State} {s t : State} (h : withImm n f s = .next t)
    (k : ∀ v, causes (f v s) = causes s) : KeepsCauses s t := by
  obtain ⟨v, rfl⟩ := withImm_eq_next h
  exact keepsCauses_of_eq (k v)

/-! ## Memory -/

/-- A refused read sets AE, any other leaves the causes (R70). -/
theorem resKeepsCauses_readByteAt (r : Bool) (addr : Triple) (s : State) : ResKeepsCauses s (readByteAt r addr s) := by
  unfold readByteAt
  refine resKeepsCauses_ite ?refused (resKeepsCauses_ite (resKeepsCauses_ok s _) (resKeepsCauses_error s _))
  case refused => rintro _ _ ⟨⟩; exact ⟨fun _ => rfl, rfl, rfl⟩

/-- A refused write sets AE, any other leaves the causes (R70). -/
theorem resKeepsCauses_writeByteAt (r : Bool) (addr : Triple) (v : Byte) (s : State) :
    ResKeepsCauses s (writeByteAt r addr v s) := by
  unfold writeByteAt
  refine resKeepsCauses_ite ?refused <| resKeepsCauses_ite (resKeepsCauses_ok s _) <|
    resKeepsCauses_ite (resKeepsCauses_ite (resKeepsCauses_error s _) ?stored) (resKeepsCauses_error s _)
  case refused => rintro _ _ ⟨⟩; exact ⟨fun _ => rfl, rfl, rfl⟩
  case stored => rintro _ _ ⟨⟩; exact keepsCauses_of_eq rfl

theorem resKeepsCauses_readWordAt (r : Bool) (addr : Triple) (s : State) : ResKeepsCauses s (readWordAt r addr s) :=
  resKeepsCauses_ite (resKeepsCauses_error s _) <|
    resKeepsCauses_andThen (resKeepsCauses_readByteAt r addr s) fun _ t =>
      resKeepsCauses_andThen (resKeepsCauses_readByteAt r _ t) fun _ u => resKeepsCauses_ok u _

theorem resKeepsCauses_writeWordAt (r : Bool) (addr : Triple) (v : Word) (s : State) :
    ResKeepsCauses s (writeWordAt r addr v s) :=
  resKeepsCauses_ite (resKeepsCauses_error s _) <|
    resKeepsCauses_andThen (resKeepsCauses_writeByteAt r addr _ s) fun _ t => resKeepsCauses_writeByteAt r _ _ t

theorem resKeepsCauses_writeTripleAt (r : Bool) (addr : Triple) (v : Triple) (s : State) :
    ResKeepsCauses s (writeTripleAt r addr v s) :=
  resKeepsCauses_ite (resKeepsCauses_error s _) <|
    resKeepsCauses_andThen (resKeepsCauses_writeByteAt r addr _ s) fun _ t =>
      resKeepsCauses_andThen (resKeepsCauses_writeByteAt r _ _ t) fun _ u => resKeepsCauses_writeByteAt r _ _ u

/-- A byte read whose value is then computed with. -/
theorem resKeepsCauses_readByteAt_map {α : Type} (r : Bool) (addr : Triple) (s : State) (f : Byte → α) :
    ResKeepsCauses s (Res.andThen (readByteAt r addr s) fun v t => .ok (f v, t)) :=
  resKeepsCauses_andThen (resKeepsCauses_readByteAt r addr s) fun _ t => resKeepsCauses_ok t _

theorem resKeepsCauses_wordOperand (o : Operand) (s : State) : ResKeepsCauses s (wordOperand o s) := by
  unfold wordOperand
  cases s.wordK with
  | none | wordx => exact resKeepsCauses_readByteAt_map _ _ s _
  | word => exact resKeepsCauses_ite (resKeepsCauses_ok s _) (resKeepsCauses_error s _)

theorem resKeepsCauses_tripleOperand (o : Operand) (s : State) : ResKeepsCauses s (tripleOperand o s) := by
  unfold tripleOperand
  cases s.wordK with
  | none | wordx => exact resKeepsCauses_readByteAt_map _ _ s _
  | word =>
    exact resKeepsCauses_ite
      (resKeepsCauses_ite (resKeepsCauses_error s _) (resKeepsCauses_readByteAt_map _ _ s _)) (resKeepsCauses_error s _)

theorem rmwByte_keepsCauses {o : Operand} {f : Byte → Alu 8} {s t : State} (h : rmwByte o f s = .next t) :
    KeepsCauses s t := by
  obtain ⟨v, s1, u, s2, read, written, rfl⟩ := rmwByte_eq_next h
  have kept := (resKeepsCauses_readByteAt _ _ s _ _ read).trans (resKeepsCauses_writeByteAt _ _ _ s1 _ _ written)
  exact kept.trans (keepsCauses_of_eq rfl)

theorem rmwWord_keepsCauses {o : Operand} {f : Word → Alu 16} {s t : State} (h : rmwWord o f s = .next t) :
    KeepsCauses s t := by
  obtain ⟨v, s1, u, s2, read, written, rfl⟩ := rmwWord_eq_next h
  have kept := (resKeepsCauses_readWordAt _ _ s _ _ read).trans (resKeepsCauses_writeWordAt _ _ _ s1 _ _ written)
  exact kept.trans (keepsCauses_of_eq rfl)

/-! ## Branches -/

@[simp] theorem causes_setXC (v : Pair) (s : State) : causes (setXC v s) = causes s := by simp [causes]

theorem causes_jumpIf (cond : Bool) (target : Pair) (s : State) : causes (jumpIf cond target s) = causes s := by
  unfold jumpIf; split_ifs <;> simp

theorem causes_linkTo (target : Pair) (s : State) : causes (linkTo target s) = causes s := causes_setXC _ _

theorem causes_linkIf (cond : Bool) (target : Pair) (s : State) : causes (linkIf cond target s) = causes s := by
  unfold linkIf
  split_ifs
  · exact causes_linkTo target s
  all_goals rfl

theorem causes_loopStep (n : Byte) (d : Triple) (s : State) : causes (loopStep n d s) = causes s := by
  unfold loopStep
  split_ifs
  · exact causes_jumpIf _ _ _
  · rfl

/-! ## INT and CLEAR -/

theorem execInt_inside (k : BitVec 4) {s : State} (inside : s.inInt = true) : execInt k s = .fault .intInInterrupt :=
  if_pos inside

theorem execInt_outside (k : BitVec 4) {s : State} (outside : s.inInt = false) :
    execInt k s = .next (enterInterrupt k s) :=
  if_neg (Bool.eq_false_iff.mp outside)

/-- INT that goes on has entered the interrupt (R174). -/
theorem execInt_eq_next {k : BitVec 4} {s t : State} (h : execInt k s = .next t) : t = enterInterrupt k s := by
  cases inside : s.inInt with
  | true => cases (execInt_inside k inside).symm.trans h
  | false => cases (execInt_outside k inside).symm.trans h; rfl

/-- The vector of a cause as a number (R405). -/
theorem vectorOf_toNat (k : BitVec 4) : (vectorOf k).toNat = k.toNat * 2 + 32 := by
  revert k; decide

/-- Under the parameters' ranges an interrupt is entered at its vector, whole (R25, R405). -/
theorem enterInterrupt_eq {s : State} (k : BitVec 4) (wf : s.cfg.wf = true) :
    enterInterrupt k s = { s with inInt := true, ic := BitVec.ofNat 17 (k.toNat * 2 + 32) } := by
  simp only [Params.wf, Bool.and_eq_true, decide_eq_true_eq] at wf
  have reach : 2 ^ 9 ≤ 2 ^ s.cfg.icBits := Nat.pow_le_pow_right (by decide) (by omega)
  have fits : k.toNat * 2 + 32 < 2 ^ s.cfg.icBits := by omega
  simp only [enterInterrupt, setIC, keepLow, BitVec.setWidth_ofNat_of_le (show 17 ≤ 32 by decide), vectorOf_toNat,
    Nat.mod_eq_of_lt fits]

/-- CLEAR of a number that names no cause. -/
theorem execClear_other {k : BitVec 4} (s : State) (h0 : k ≠ 0) (h1 : k ≠ 1) (h15 : k ≠ 15) : execClear k s = .next s := by
  rw [execClear, if_neg h0, if_neg h1, if_neg h15]

/-! ## Every instruction -/

/-- Whatever the instruction, unless it is CLEAR the pending causes stay pending. -/
theorem exec_keepsCauses {i : Instr} {s t : State} (h : exec i s = .next t) (other : ∀ k, i ≠ .clear k) :
    KeepsCauses s t := by
  cases i with
  | clear k => exact absurd rfl (other k)
  | getflagW o | reservedG e op g | reservedOpmsb op g | unusedOp e op g => cases h
  | nop | getpc | getmc | setpc | setmc | addABXC | nibble | addABC | wshl | clc | offset k | cpuinforst | cpuinfoinc
  | cpuinfoget | ldAB | ldBA | swapAB | ldCA | ldABCA | ldBACA | ldABBACA | ldAC | ldBC | ldACBC | ldCB | ldACCB | swapBC
  | ldACBCCB | incB | incX | incBX | incBXm | dincB | dincX | dincBX | dincBXm | decB | decX | decBX | decBXp | ddecB | ddecX
  | ddecBX | ddecBXp | byteswap r | ldXAB | ldXAC | enable | disable | getstat | opmsb | inputa | outputb | inout
  | andAn n | xorAn n | orAn n | ldAn n | ldBn n | ldCn n | ldXn n | nLdXnn n | ldT n | addAn n | addcAn n
  | andAC | xorAC | orAC | addAC | addcAC | subAC | subcAC => exact keepsCauses_of_next h rfl
  | mul | usermode k => exact keepsCauses_of_next (eq_next_of_ite h) rfl
  | int k => rw [execInt_eq_next h]; exact keepsCauses_of_eq rfl
  | num n => rw [execNum_eq_next h]; exact keepsCauses_of_eq rfl
  | nAndAnn n | nXorAnn n | nOrAnn n | nAddAnn n | nAddcAnn n => exact keepsCauses_withImm h fun _ => rfl
  | nLdAnn n => exact keepsCauses_withImm (f := fun v u => { u with a := v }) h fun _ => rfl
  | nLdBnn n => exact keepsCauses_withImm (f := fun v u => { u with b := v }) h fun _ => rfl
  | nLdCnn n => exact keepsCauses_withImm (f := fun v u => { u with c := v }) h fun _ => rfl
  | jrN n | jrB | jmpM m | jmpAB | jmpMB m => exact keepsCauses_of_next h (causes_setXC _ s)
  | brN n | brB | balM m | balAB | balMB m => exact keepsCauses_of_next h (causes_linkTo _ s)
  | jrc0N n | jrc1N n | jrz0N n | jrz1N n | jrc0B | jrc1B | jrz0B | jrz1B | jmpc0 | jmpc1 | jmpz0 | jmpz1 =>
    exact keepsCauses_of_next h (causes_jumpIf _ _ s)
  | brc0N n | brc1N n | brz0N n | brz1N n | brc0B | brc1B | brz0B | brz1B | balc0 | balc1 | balz0 | balz1 =>
    exact keepsCauses_of_next h (causes_linkIf _ _ s)
  | loopinc n | loopincW n | loopdec n | loopdecW n => exact keepsCauses_of_next h (causes_loopStep n _ s)
  | ldA o | ldB o | ldC o | ldX o | out o | andA o | xorA o | orA o | addA o | addcA o | subA o | subcA o =>
    exact keepsCauses_finish (resKeepsCauses_readByteAt _ _ s) h fun _ _ => rfl
  | ldWA o | ldWB o | ldWC o | word o | wordx o =>
    exact keepsCauses_finish (resKeepsCauses_readWordAt _ _ s) h fun _ _ => rfl
  | ldWX o => exact keepsCauses_finish (resKeepsCauses_readWordAt _ _ s) (execLdWX_eq_next h) fun _ _ => rfl
  | wLdX o => exact keepsCauses_finish (resKeepsCauses_tripleOperand o s) h fun _ _ => rfl
  | wAndA o | wXorA o | wOrA o | wAddA o | wAddcA o | wSubA o | wSubcA o =>
    exact keepsCauses_finish (resKeepsCauses_wordOperand o s) h fun _ _ => rfl
  | setflag o =>
    obtain ⟨v, u, read, rfl⟩ := execSetflag_eq_next h
    exact (resKeepsCauses_readByteAt _ _ s v u read).trans (keepsCauses_of_eq rfl)
  | reti m =>
    obtain ⟨v, rfl⟩ := execReti_eq_next h
    exact keepsCauses_of_eq rfl
  | stA o | stB o | stC o | stX o | zero o | getflag o =>
    exact keepsCauses_finish (resKeepsCauses_writeByteAt _ _ _ s) h fun _ _ => rfl
  | stWA o | stWB o | stWC o | zeroW o =>
    exact keepsCauses_finish (resKeepsCauses_writeWordAt _ _ _ s) h fun _ _ => rfl
  | stTX o => exact keepsCauses_finish (resKeepsCauses_writeTripleAt _ _ _ s) h fun _ _ => rfl
  | inp o =>
    have input : KeepsCauses s (ioInByte s.c s).2 := keepsCauses_of_eq rfl
    exact input.trans (keepsCauses_finish (resKeepsCauses_writeByteAt _ _ _ _) h fun _ _ => rfl)
  | inpW o =>
    have input : KeepsCauses s (ioInWord s.c s).2 := keepsCauses_of_eq rfl
    exact input.trans (keepsCauses_finish (resKeepsCauses_writeWordAt _ _ _ _) h fun _ _ => rfl)
  | dincM o | ddecM o | shl o | shlc o | shr o | shrc o | andM o | xorM o | orM o | incM o | inccM o | addM o | addcM o
  | decM o | decKeep m | deccM o | subM o | subcM o => exact rmwByte_keepsCauses h
  | dincWM o | ddecWM o | shlW o | shlcW o | shrW o | shrcW o | andWM o | xorWM o | orWM o | incWM o | inccWM o | addWM o
  | addcWM o | decWM o | decWKeep | deccWM o | subWM o | subcWM o => exact rmwWord_keepsCauses h
  | mov o =>
    exact keepsCauses_finish
      (resKeepsCauses_andThen (resKeepsCauses_readByteAt _ _ s) fun v u => resKeepsCauses_writeByteAt _ _ v u) h
      fun _ _ => rfl
  | movW o =>
    exact keepsCauses_finish
      (resKeepsCauses_andThen (resKeepsCauses_readWordAt _ _ s) fun v u => resKeepsCauses_writeWordAt _ _ v u) h
      fun _ _ => rfl
  | hardMacro e op g =>
    obtain ⟨w, u, written, rfl⟩ := execHardMacro_eq_next (e := e) h
    exact (resKeepsCauses_writeByteAt _ _ g s w u written).trans (keepsCauses_of_eq rfl)
  | mulx =>
    obtain ⟨high, low, w, u, written, rfl⟩ := execMulx_eq_next h
    exact (resKeepsCauses_writeWordAt _ _ high s w u written).trans (keepsCauses_of_eq rfl)

/-! ## The statements -/

/-- A cause that CLEAR drops for the number `m` alone. -/
theorem clear_eq_of_dropped {k m : BitVec 4} {b : Bool} (pending : b = true)
    (dropped : (if k = m then false else b) = false) : Instr.clear k = .clear m := by
  by_contra differs
  rw [if_neg fun e => differs (congrArg _ e), pending] at dropped
  cases dropped

/-- Settles O14: CLEAR drops the cause of its number, and every other instruction keeps the causes. -/
theorem onlyClearDropsACause : Obligations.OnlyClearDropsACause := by
  intro i s t h
  by_cases clears : ∃ k, i = .clear k
  · obtain ⟨k, rfl⟩ := clears
    cases h
    exact ⟨clear_eq_of_dropped, clear_eq_of_dropped, clear_eq_of_dropped⟩
  · have kept := exec_keepsCauses h fun k e => clears ⟨k, e⟩
    have stays {b c : Bool} {p : Prop} (keeps : b = true → c = true) (pending : b = true) (dropped : c = false) : p :=
      absurd ((keeps pending).symm.trans dropped) nofun
    exact ⟨stays kept.ae, stays kept.int0.trans, stays kept.int1.trans⟩

/-- Settles O17: INT in an interrupt faults, and outside one it is the entry. -/
theorem softwareInterrupt : Obligations.SoftwareInterrupt := fun k _ =>
  ⟨execInt_inside k, fun outside wf => (execInt_outside k outside).trans (congrArg _ (enterInterrupt_eq k wf))⟩

/-- Settles O20: CLEAR of the three numbers as it is written, and `execClear_other`. -/
theorem clearDropsItsCause : Obligations.ClearDropsItsCause := fun s => ⟨rfl, rfl, rfl, fun _ => execClear_other s⟩

end Sys2Proof.Machine
end

section
/-! PROOFS. The instructions of OP 00 and OP 01 on registers, as numbers: the pair A:B, the counters, LD X, BYTESWAP, and the
system registers. -/

namespace Sys2Proof.Machine

/-! ## Bit vectors as numbers -/

/-- Two bit vectors side by side, the left one high. -/
theorem toNat_append_eq_add {m n : Nat} (u : BitVec m) (v : BitVec n) : (u ++ v).toNat = u.toNat * 2 ^ n + v.toNat := by
  rw [BitVec.toNat_append, ← Nat.shiftLeft_add_eq_or_of_lt v.isLt, Nat.shiftLeft_eq]

/-- Some bits of a bit vector, widened. -/
theorem setWidth_extractLsb'_eq_ofNat {w : Nat} (k n m : Nat) (v : BitVec w) :
    (v.extractLsb' k n).setWidth m = BitVec.ofNat m (v.toNat / 2 ^ k % 2 ^ n) := by
  rw [← BitVec.ofNat_toNat, BitVec.extractLsb'_toNat, Nat.shiftRight_eq_div_pow]

/-- A counter as a word address. -/
theorem toNat_wordAddress {w : Nat} (v : BitVec w) (h : w ≤ 32) : (v.setWidth 32 >>> 1).toNat = v.toNat / 2 := by
  rw [BitVec.toNat_ushiftRight, BitVec.toNat_setWidth_of_le h, Nat.shiftRight_eq_div_pow, Nat.pow_one]

/-! ## The pair A:B (R8, D10, D43, D44) -/

/-- A is the high half of the pair. -/
theorem pairAB_toNat (s : State) : (pairAB s).toNat = s.a.toNat * 65536 + s.b.toNat := toNat_append_eq_add s.a s.b

/-- Writing the pair writes the halves of a number modulo 2^32. -/
theorem setAB_eq_ofNat {v : Pair} {n : Nat} (s : State) (h : v.toNat = n % 2 ^ 32) :
    setAB v s = { s with a := BitVec.ofNat 16 (n / 65536), b := BitVec.ofNat 16 n } := by
  have high : BitVec.ofNat 16 (n % 2 ^ 32 / 65536) = BitVec.ofNat 16 (n / 65536) := by
    apply BitVec.eq_of_toNat_eq; simp only [BitVec.toNat_ofNat]; omega
  have low : BitVec.ofNat 16 (n % 2 ^ 32) = BitVec.ofNat 16 n := by
    apply BitVec.eq_of_toNat_eq; simp only [BitVec.toNat_ofNat]; omega
  rw [setAB, highHalf_eq_ofNat, lowHalf_eq_ofNat, h, high, low]

/-- Writing the pair a value that has not wrapped. -/
theorem setAB_eq_ofNat_of_toNat {v : Pair} {n : Nat} (s : State) (h : v.toNat = n) :
    setAB v s = { s with a := BitVec.ofNat 16 (n / 65536), b := BitVec.ofNat 16 n } :=
  setAB_eq_ofNat s (by rw [← h, Nat.mod_eq_of_lt v.isLt])

/-- A sum on the pair wraps at 32 bits. -/
theorem toNat_pairAB_add (s : State) (v : Pair) :
    (pairAB s + v).toNat = (s.a.toNat * 65536 + s.b.toNat + v.toNat) % 2 ^ 32 := by
  rw [BitVec.toNat_add, pairAB_toNat]

/-- The pair doubled wraps at 32 bits. -/
theorem toNat_pairAB_double (s : State) :
    (pairAB s <<< 1).toNat = 2 * (s.a.toNat * 65536 + s.b.toNat) % 2 ^ 32 := by
  rw [BitVec.toNat_shiftLeft, pairAB_toNat, Nat.shiftLeft_eq, Nat.pow_one, Nat.mul_comm]

/-- The counter in use as a word address, the link (R282). -/
theorem toNat_activeCounter_shiftRight (s : State) : (activeCounter s >>> 1).toNat = (activeCounter s).toNat / 2 := by
  rw [BitVec.toNat_ushiftRight, Nat.shiftRight_eq_div_pow, Nat.pow_one]

/-- A byte address from the pair, cut to a counter's width (R29). -/
theorem keepLow_pairAB_double {bits width : Nat} (s : State) (hb : bits ≤ 32) (hw : width ≤ 32) :
    (keepLow bits (pairAB s <<< 1)).setWidth width =
      BitVec.ofNat width (2 * (s.a.toNat * 65536 + s.b.toNat) % 2 ^ bits) := by
  rw [keepLow, BitVec.setWidth_ofNat_of_le hw, toNat_pairAB_double, Nat.mod_mod_of_dvd _ (Nat.pow_dvd_pow 2 hb)]

/-- SETPC writes the pair doubled (R125). -/
theorem execSetpc_eq {s : State} (wf : s.cfg.wf = true) :
    execSetpc s =
      .next { s with pc := BitVec.ofNat 25 (2 * (s.a.toNat * 65536 + s.b.toNat) % 2 ^ s.cfg.pcBits) } := by
  simp only [Params.wf, Bool.and_eq_true, decide_eq_true_eq] at wf
  rw [execSetpc, setPC, keepLow_pairAB_double s (by omega) (by decide)]

/-- SETMC writes the pair doubled (R128). -/
theorem execSetmc_eq {s : State} (wf : s.cfg.wf = true) :
    execSetmc s =
      .next { s with mc := BitVec.ofNat 17 (2 * (s.a.toNat * 65536 + s.b.toNat) % 2 ^ s.cfg.mcBits) } := by
  simp only [Params.wf, Bool.and_eq_true, decide_eq_true_eq] at wf
  rw [execSetmc, setMC, keepLow_pairAB_double s (by omega) (by decide)]

/-- NIBBLE takes the two low hexadecimal digits of C (R127, D14). -/
theorem execNibble_eq (s : State) :
    execNibble s = .next { s with
      a := BitVec.ofNat 16 (s.c.toNat % 16), b := BitVec.ofNat 16 (s.c.toNat / 16 % 16) } := by
  rw [execNibble, setWidth_extractLsb'_eq_ofNat, setWidth_extractLsb'_eq_ofNat, Nat.pow_zero, Nat.div_one]
  rfl

/-- The low 24 bits of two words side by side. -/
theorem setWidth_append_eq_ofNat (u v : Word) :
    (u.setWidth 8 ++ v : Triple) = BitVec.ofNat 24 (u.toNat * 65536 + v.toNat) := by
  apply BitVec.eq_of_toNat_eq
  rw [toNat_append_eq_add, BitVec.toNat_setWidth, BitVec.toNat_ofNat]
  omega

/-- Settles O23: each operation on the pair is its number, by `setAB_eq_ofNat`; the counters by `keepLow_pairAB_double`. -/
theorem pairAndCounterOperations : Obligations.PairAndCounterOperations := by
  intro s wf
  refine ⟨congrArg _ (setAB_eq_ofNat s ?addABC), congrArg _ (setAB_eq_ofNat s (toNat_pairAB_double s)),
    congrArg _ (setAB_eq_ofNat s ?addABXC), congrArg _ (setAB_eq_ofNat_of_toNat s (toNat_wordAddress s.pc (by decide))),
    congrArg _ (setAB_eq_ofNat_of_toNat s (toNat_wordAddress s.mc (by decide))), execSetpc_eq wf, execSetmc_eq wf,
    execNibble_eq s, ?ldXAB, ?ldXAC, rfl, rfl⟩
  case addABC => rw [toNat_pairAB_add, BitVec.toNat_setWidth_of_le (by decide)]
  case addABXC => rw [toNat_pairAB_add, toNat_activeCounter_shiftRight]
  case ldXAB => rw [← setWidth_append_eq_ofNat]; rfl
  case ldXAC => rw [← setWidth_append_eq_ofNat]; rfl

/-! ## Transfers and steps -/

/-- Settles O21: each transfer is written with the values before it (R139). -/
theorem registerTransfers : Obligations.RegisterTransfers := fun _ =>
  ⟨rfl, rfl, rfl, rfl, rfl, rfl, rfl, rfl, rfl, rfl, rfl, rfl, rfl, rfl⟩

/-- Settles O22: each step is the addition or subtraction of bit vectors, which wraps (D43). -/
theorem stepsOfBAndX : Obligations.StepsOfBAndX := fun _ =>
  ⟨rfl, rfl, rfl, rfl, rfl, rfl, rfl, rfl, rfl, rfl, rfl, rfl, rfl, rfl, rfl, rfl⟩

/-! ## Byte swap (R171, D16) -/

/-- The bytes of a word exchanged, as a number. -/
theorem swapBytes_eq_ofNat (v : Word) : swapBytes v = BitVec.ofNat 16 (v.toNat % 256 * 256 + v.toNat / 256) := by
  have upper : v.toNat / 2 ^ 8 % 2 ^ 8 = v.toNat / 256 := by omega
  apply BitVec.eq_of_toNat_eq
  rw [swapBytes, toNat_append_eq_add, BitVec.toNat_setWidth, BitVec.extractLsb'_toNat, Nat.shiftRight_eq_div_pow,
    BitVec.toNat_ofNat, upper]
  omega

/-- With no bit set no register is selected. -/
theorem execByteswap_zero (s : State) : execByteswap 0 s = .next s := by
  have unset (i : Nat) : (0 : BitVec 4).getLsbD i = false := BitVec.getLsbD_zero
  simp only [execByteswap, unset, Bool.false_eq_true, if_false]

/-- Settles O26: each register selected by `swapBytes_eq_ofNat`, X under whichever map. -/
theorem byteswapSwapsSelectedRegisters : Obligations.ByteswapSwapsSelectedRegisters := by
  intro s
  refine ⟨execByteswap_zero s, fun r => ?_⟩
  simp only [← swapBytes_eq_ofNat]
  rfl

/-! ## Mode, offset, CPUINFO, interrupt enable, status and OPMSB -/

/-- CPUINFOGET shifts a bit into A (R136). -/
theorem shiftIn_eq_ofNat (v : Word) (b : Bool) :
    (v.extractLsb' 0 15 ++ BitVec.ofBool b : Word) = BitVec.ofNat 16 (2 * v.toNat + b.toNat) := by
  have le := b.toNat_le
  apply BitVec.eq_of_toNat_eq
  rw [toNat_append_eq_add, BitVec.extractLsb'_toNat, BitVec.toNat_ofBool, BitVec.toNat_ofNat, Nat.shiftRight_zero]
  omega

/-- The image of the status register as a number; TM reads 0 (R36, R177). -/
theorem statusImage_eq_ofNat (s : State) :
    (statusImage s).setWidth 16 = BitVec.ofNat 16 (128 * s.ef.toNat + (s.cfg.userMode && s.ae).toNat) := by
  have noTimer : timerBit s = false := rfl
  rw [statusImage, noTimer, accessError]
  generalize s.ef = ef, (s.cfg.userMode && s.ae) = ae
  revert ef ae
  decide

/-- USERMODE writes UF where the option is there (R132, D40). -/
theorem execUsermode_eq {s : State} (k : BitVec 1) (built : s.cfg.userMode = true) :
    execUsermode k s = .next { s with uf := k.getLsbD 0 } := by
  rw [execUsermode, if_pos built, setUF, if_pos built]

/-- Settles O25: USERMODE by whether the option is there, CPUINFOGET and GETSTAT as numbers; the others as they are written. -/
theorem systemRegisters : Obligations.SystemRegisters := by
  intro s
  rw [← shiftIn_eq_ofNat, ← statusImage_eq_ofNat]
  exact ⟨fun k built => execUsermode_eq k built, fun _ absent => if_neg (Bool.eq_false_iff.mp absent), fun _ => rfl,
    rfl, rfl, rfl, rfl, rfl, rfl, rfl⟩

end Sys2Proof.Machine
end

section
/-! PROOFS. The immediates of OP 04 to 0F, by how many NUM prefixes are pending. -/

namespace Sys2Proof.Machine

/-! ## Without a NUM -/

/-- Settles O31: the zero extension of a byte is its number at the register's width. -/
theorem loadImmediates : Obligations.LoadImmediates := by
  intro n s
  simp only [BitVec.ofNat_toNat]
  exact ⟨rfl, rfl, rfl, rfl⟩

/-- Settles O32: each operation is its function of A and the zero-extended byte, LD.T a register. -/
theorem plainImmediates : Obligations.PlainImmediates := fun _ _ =>
  ⟨rfl, rfl, rfl, fun _ => rfl, rfl, rfl⟩

/-! ## NUM (R200) -/

/-- What the next byte is put below: the low byte of the prefix (R98, R200). -/
theorem setWidth_eq_lowByte (v : Word) : v.setWidth 8 = v.extractLsb' 0 8 := BitVec.setWidth_eq_extractLsb' (by decide)

/-- The first NUM. -/
theorem execNum_zero (n : Byte) {s : State} (zero : s.numN = .zero) :
    execNum n s = .next { s with numV := s.numV.extractLsb' 0 8 ++ n, numN := .one } := by
  rw [execNum, zero, setWidth_eq_lowByte]

/-- The second NUM. -/
theorem execNum_one (n : Byte) {s : State} (one : s.numN = .one) :
    execNum n s = .next { s with numV := s.numV.extractLsb' 0 8 ++ n, numN := .two } := by
  rw [execNum, one, setWidth_eq_lowByte]

/-- A third NUM is misuse. -/
theorem execNum_two (n : Byte) {s : State} (two : s.numN = .two) : execNum n s = .fault .prefixMisuse := by
  rw [execNum, two]

/-! ## The immediates NUM widens (R201, R215, R221, D5) -/

/-- After one NUM a 16-bit destination takes 16 bits. -/
theorem withImm_one (n : Byte) (f : Word → State → State) {s : State} (one : s.numN = .one) :
    withImm n f s = .next (f (s.numV.extractLsb' 0 8 ++ n) s) := by
  have imm : immWord n s = .ok (s.numV.extractLsb' 0 8 ++ n) := by rw [immWord, one, setWidth_eq_lowByte]
  rw [withImm, imm]

/-- After two NUMs a 16-bit destination is misuse. -/
theorem withImm_two (n : Byte) (f : Word → State → State) {s : State} (two : s.numN = .two) :
    withImm n f s = .fault .prefixMisuse := by
  have imm : immWord n s = .error .prefixMisuse := by rw [immWord, two]
  rw [withImm, imm]

/-- After one NUM LD X takes 16 bits, zero-extended. -/
theorem execNLdXnn_one (n : Byte) {s : State} (one : s.numN = .one) :
    execNLdXnn n s = .next { s with x := (s.numV.extractLsb' 0 8 ++ n : Word).setWidth 24 } := by
  rw [execNLdXnn, immTriple, one, setWidth_eq_lowByte]

/-- After two NUMs LD X takes 24 bits. -/
theorem execNLdXnn_two (n : Byte) {s : State} (two : s.numN = .two) :
    execNLdXnn n s = .next { s with x := s.numV ++ n } := by
  rw [execNLdXnn, immTriple, two]

/-- Settles O33: NUM by the count before it; the immediates on A, B and C by `withImm_one` and `withImm_two`, LD X by its own
pair of lemmas. -/
theorem numPrefixAndItsImmediates : Obligations.NumPrefixAndItsImmediates := by
  intro n s
  refine ⟨fun one => ?widened, fun zero => execNum_zero n zero, fun one => execNum_one n one, fun two => ?twice⟩
  case widened =>
    have imm (f : Word → State → State) := withImm_one n f one
    exact ⟨imm _, imm _, imm _, imm fun v t => { t with a := v }, imm fun v t => { t with b := v },
      imm fun v t => { t with c := v }, execNLdXnn_one n one, imm _, imm _⟩
  case twice =>
    have misuse (f : Word → State → State) := withImm_two n f two
    exact ⟨execNum_two n two, execNLdXnn_two n two, misuse _, misuse _, misuse _,
      misuse fun v t => { t with a := v }, misuse fun v t => { t with b := v }, misuse fun v t => { t with c := v },
      misuse _, misuse _⟩

end Sys2Proof.Machine
end

section
/-! PROOFS. The accumulator operations on register C. -/

namespace Sys2Proof.Machine

/-- What an accumulator operation writes: A, and the flags its result names (R10). -/
theorem accumulate_eq_withAcc (r : Alu 16) (s : State) : accumulate r s = withAcc r s := rfl

/-- An instruction that accumulates a result goes on with A and the flags written. -/
theorem next_withAcc {out : Out} {r : Alu 16} {s : State} (h : out = .next (accumulate r s)) : out = .next (withAcc r s) :=
  h.trans (congrArg _ (accumulate_eq_withAcc r s))

/-- Settles O37: each operation accumulates its function of A and C (R244, R247, R250, R255, R258, R262, R265). -/
theorem accumulatorRegisterOperations : Obligations.AccumulatorRegisterOperations := fun s =>
  ⟨next_withAcc (r := logic (s.a &&& s.c)) rfl,
    next_withAcc (r := logic (s.a ^^^ s.c)) rfl,
    next_withAcc (r := logic (s.a ||| s.c)) rfl,
    next_withAcc (r := addC s.a s.c false) rfl,
    next_withAcc (r := addC s.a s.c s.cf) rfl,
    next_withAcc (r := subB s.a s.c false) rfl,
    next_withAcc (r := subB s.a s.c s.cf) rfl⟩

end Sys2Proof.Machine
end

section
/-! PROOFS. Branches, links and loops: each target is its number modulo 2^32, which the width of the counter in use divides. -/

namespace Sys2Proof.Machine

/-! ## Targets as numbers (R280, R281, R283) -/

/-- A target relative to the counter in use, by a distance in words (R280). -/
theorem activeCounter_add_eq_ofInt (d : Int) (s : State) :
    activeCounter s + BitVec.ofInt 32 d * 2 = BitVec.ofInt 32 ((activeCounter s).toNat + 2 * d) := by
  rw [BitVec.ofInt_add, BitVec.ofInt_natCast, BitVec.ofNat_toNat, BitVec.setWidth_eq, Int.mul_comm, BitVec.ofInt_mul]
  rfl

theorem relTarget_eq_ofInt (n : Byte) (s : State) :
    relTarget n s = BitVec.ofInt 32 ((activeCounter s).toNat + 2 * n.toInt) := activeCounter_add_eq_ofInt n.toInt s

/-- B is read as a signed or an unsigned number, as the parameter says (R281, D11). -/
theorem relTargetB_eq_ofInt (s : State) :
    relTargetB s =
      BitVec.ofInt 32 ((activeCounter s).toNat + 2 * (if s.cfg.jrBSigned then s.b.toInt else s.b.toNat)) := by
  rw [relTargetB, ← activeCounter_add_eq_ofInt]
  split_ifs
  · rfl
  · rw [BitVec.ofInt_natCast, BitVec.ofNat_toNat]

theorem absTargetM_eq_ofInt (m : Fin 122) : absTargetM m = BitVec.ofInt 32 (2 * m.val) := by
  rw [absTargetM, Nat.mul_comm]
  rfl

/-- A word address doubled is a byte address (R283). -/
theorem shiftLeft_one_eq_ofInt {v : Pair} {n : Nat} (h : v.toNat = n) : v <<< 1 = BitVec.ofInt 32 (2 * n) := by
  rw [BitVec.shiftLeft_eq_mul_twoPow, BitVec.mul_comm, BitVec.ofInt_mul, BitVec.ofInt_natCast, ← h, BitVec.ofNat_toNat,
    BitVec.setWidth_eq]
  rfl

theorem absTargetAB_eq_ofInt (s : State) :
    absTargetAB s = BitVec.ofInt 32 (2 * (s.a.toNat * 65536 + s.b.toNat)) :=
  shiftLeft_one_eq_ofInt (pairAB_toNat s)

theorem absTargetMB_eq_ofInt (m : BitVec 7) (s : State) :
    absTargetMB m s = BitVec.ofInt 32 (2 * (m.toNat * 65536 + s.b.toNat)) :=
  shiftLeft_one_eq_ofInt ((BitVec.toNat_setWidth_of_le (by decide)).trans (toNat_append_eq_add m s.b))

/-! ## Branching, linking and looping -/

/-- The counter in use takes the target cut to its width (R29, R280). -/
theorem movesTo_setXC_ofInt {s : State} (wf : s.cfg.wf = true) (target : Int) :
    MovesTo target s (setXC (BitVec.ofInt 32 target) s) := by
  refine movesTo_setXC wf ?_
  have bits : activeBits s ≤ 32 := (activeBits_le wf).trans (by decide)
  have widthDvd : ((2 ^ activeBits s : Nat) : Int) ∣ (2 ^ 32 : Nat) := Int.natCast_dvd_natCast.mpr (Nat.pow_dvd_pow 2 bits)
  rw [BitVec.toNat_ofInt, Int.toNat_of_nonneg (Int.emod_nonneg _ (by decide)), Int.emod_emod_of_dvd _ widthDvd]

theorem jumps_jumpIf {s : State} {v : Pair} {target : Int} (wf : s.cfg.wf = true) (h : v = BitVec.ofInt 32 target)
    (cond : Bool) : Jumps cond target s (.next (jumpIf cond v s)) := by
  subst h
  refine ⟨fun taken => ⟨_, rfl, ?_⟩, fun notTaken => ?_⟩
  · rw [jumpIf, if_pos taken]
    exact movesTo_setXC_ofInt wf target
  · rw [jumpIf, notTaken, if_neg Bool.false_ne_true]

/-- The link is the word address of the next instruction (R282). -/
theorem setAB_linkValue (s : State) : setAB (linkValue s) s = linked s :=
  setAB_eq_ofNat_of_toNat s (toNat_activeCounter_shiftRight s)

/-- Writing the pair its own value changes nothing. -/
theorem setAB_pairAB (s : State) : setAB (pairAB s) s = s := by
  rw [setAB, pairAB, BitVec.extractLsb'_append_eq_left, BitVec.extractLsb'_append_eq_right]

/-- A link not taken leaves the pair or links it, and draws one bit (R282, D12). -/
theorem linkIf_false (v : Pair) (s : State) :
    linkIf false v s = { s with draws := s.draws + 1 } ∨ linkIf false v s = { linked s with draws := s.draws + 1 } := by
  rw [linkIf, if_neg Bool.false_ne_true]
  cases (drawBit s).1 with
  | false => exact .inl (setAB_pairAB (drawBit s).2)
  | true => exact .inr (setAB_linkValue (drawBit s).2)

theorem links_linkIf {s : State} {v : Pair} {target : Int} (wf : s.cfg.wf = true) (h : v = BitVec.ofInt 32 target)
    (cond : Bool) : Links cond target s (.next (linkIf cond v s)) := by
  subst h
  refine ⟨fun taken => ⟨_, rfl, ?_⟩, fun notTaken => ?_⟩
  · rw [linkIf, if_pos taken, linkTo, setAB_linkValue]
    exact movesTo_setXC_ofInt (s := linked s) wf target
  · rw [notTaken]
    exact (linkIf_false _ s).imp (congrArg _) (congrArg _)

/-- While C is not 0 a loop branches, counting C down and stepping X (R308, R309). -/
theorem loopStep_of_ne {s : State} (n : Byte) (d : Triple) (run : s.c ≠ 0) :
    loopStep n d s = setXC (relTarget n s) { s with c := s.c - 1, x := s.x + d } := by
  have counting : (s.c != 0) = true := bne_iff_ne.mpr run
  rw [loopStep, counting, Bool.true_or, if_pos rfl, jumpIf, if_pos rfl]

/-- With C at 0 a loop falls through, C and X kept or both updated (R308, D13). -/
theorem loopStep_of_eq {s : State} (n : Byte) (d : Triple) (zero : s.c = 0) :
    loopStep n d s = s ∨ loopStep n d s = { s with c := 0xFFFF, x := s.x + d } := by
  have counted : (s.c != 0) = false := bne_eq_false_iff_eq.mpr zero
  rw [loopStep, counted, Bool.false_or, jumpIf, if_neg Bool.false_ne_true, zero]
  split_ifs
  · exact .inr rfl
  · exact .inl rfl

/-- What Loops states of one loop with step `d`. -/
theorem loops_loopStep {s : State} (wf : s.cfg.wf = true) (n : Byte) (d : Triple) :
    (s.c ≠ 0 → ∃ t, (.next (loopStep n d s) : Out) = .next t ∧
      MovesTo ((activeCounter s).toNat + 2 * n.toInt) { s with c := s.c - 1, x := s.x + d } t) ∧
    (s.c = 0 → (.next (loopStep n d s) : Out) = .next s ∨
      (.next (loopStep n d s) : Out) = .next { s with c := 0xFFFF, x := s.x + d }) := by
  refine ⟨fun run => ⟨_, rfl, ?_⟩, fun zero => (loopStep_of_eq n d zero).imp (congrArg _) (congrArg _)⟩
  rw [loopStep_of_ne n d run, relTarget_eq_ofInt]
  exact movesTo_setXC_ofInt (s := { s with c := s.c - 1, x := s.x + d }) wf _

/-! ## The statements -/

/-- Settles O39: `jumps_jumpIf` with the two relative targets, for each condition. -/
theorem relativeJumps : Obligations.RelativeJumps := by
  intro n s wf
  have byN := jumps_jumpIf wf (relTarget_eq_ofInt n s)
  have byB := jumps_jumpIf wf (relTargetB_eq_ofInt s)
  exact ⟨byN true, byB true, byN (!s.cf), byB (!s.cf), byN s.cf, byB s.cf, byN (!s.zf), byB (!s.zf), byN s.zf, byB s.zf⟩

/-- Settles O40: `jumps_jumpIf` with each absolute target. -/
theorem absoluteJumps : Obligations.AbsoluteJumps := by
  intro m k s wf
  have byAB := jumps_jumpIf wf (absTargetAB_eq_ofInt s)
  exact ⟨jumps_jumpIf wf (absTargetM_eq_ofInt m) true, byAB (!s.cf), byAB s.cf, byAB (!s.zf), byAB s.zf, byAB true,
    jumps_jumpIf wf (absTargetMB_eq_ofInt k s) true⟩

/-- Settles O41: `links_linkIf` with the two relative targets, for each condition. -/
theorem relativeLinks : Obligations.RelativeLinks := by
  intro n s wf
  have byN := links_linkIf wf (relTarget_eq_ofInt n s)
  have byB := links_linkIf wf (relTargetB_eq_ofInt s)
  exact ⟨byN true, byB true, byN (!s.cf), byB (!s.cf), byN s.cf, byB s.cf, byN (!s.zf), byB (!s.zf), byN s.zf, byB s.zf⟩

/-- Settles O42: `links_linkIf` with each absolute target. -/
theorem absoluteLinks : Obligations.AbsoluteLinks := by
  intro m k s wf
  have byAB := links_linkIf wf (absTargetAB_eq_ofInt s)
  exact ⟨links_linkIf wf (absTargetM_eq_ofInt m) true, byAB (!s.cf), byAB s.cf, byAB (!s.zf), byAB s.zf, byAB true,
    links_linkIf wf (absTargetMB_eq_ofInt k s) true⟩

/-- Settles O43: `loops_loopStep` for each step on X; counting X down is adding the negative. -/
theorem loops : Obligations.Loops := by
  intro n s wf p hp
  simp only [BitVec.sub_eq_add_neg s.x, List.mem_cons, List.not_mem_nil, or_false] at hp
  obtain rfl | rfl | rfl | rfl := hp
  · exact loops_loopStep wf n 1
  · exact loops_loopStep wf n 2
  · exact loops_loopStep wf n (-1)
  · exact loops_loopStep wf n (-2)

end Sys2Proof.Machine
end

section
/-! PROOFS. The shifts by one, and the one-operand read-modify-write of a byte and of a word of memory. -/

namespace Sys2Proof.Machine

/-! ## Shifts (R345 to R352) -/

/-- The fill bit enters at the low end, at any width. -/
theorem shiftLeft_eq_concat {w : Nat} (v : BitVec (w + 1)) (fill : Bool) :
    shiftLeft v fill = { val := (v.extractLsb' 0 w).concat fill, cf := some (v.getLsbD w), zf := none } := by
  rw [shiftLeft, Alu.mk.injEq]
  refine ⟨BitVec.eq_of_getElem_eq fun i _ => ?_, rfl, rfl⟩
  cases i with
  | zero => simp
  | succ j => simp [← BitVec.getLsbD_eq_getElem]

/-- The fill bit enters at the high end, at any width. -/
theorem shiftRight_eq_cons {w : Nat} (v : BitVec (w + 1)) (fill : Bool) :
    shiftRight v fill = { val := BitVec.cons fill (v.extractLsb' 1 w), cf := some (v.getLsbD 0), zf := none } := by
  rw [shiftRight, Alu.mk.injEq]
  refine ⟨BitVec.eq_of_getElem_eq fun i hi => ?_, rfl, rfl⟩
  obtain rfl | below : i = w ∨ i < w := by omega
  · simp [BitVec.getElem_cons]
  · simp [BitVec.getElem_cons, below, below.ne]

/-- Settles O30: the shifts of w + 1 bits with w = 7 and w = 15; `concat` and `cons` are appending one bit. -/
theorem shiftFlags : Obligations.ShiftFlags :=
  ⟨fun v fill => ⟨shiftLeft_eq_concat (w := 7) v fill, shiftRight_eq_cons (w := 7) v fill⟩,
    fun v fill => ⟨shiftLeft_eq_concat (w := 15) v fill, shiftRight_eq_cons (w := 15) v fill⟩⟩

/-! ## Read-modify-write of one operand (R340 to R352, R361 to R373) -/

/-- Settles O47: each of the instructions is `rmwByte` with its function of the byte and of CF. -/
theorem modifyByteAlone : Obligations.ModifyByteAlone := by
  intro o s
  refine ⟨?dinc, ?ddec, ?shl, ?shlc, ?shr, ?shrc, ?inc, ?incc, ?dec, ?decc, fun m => ?keepsCF⟩
  case keepsCF => exact modifiesByte_rmwByte (out := execDecKeep m s) rfl
  all_goals exact modifiesByte_rmwByte rfl

/-- Settles O48: each of the instructions is `rmwWord` with its function of the word and of CF. -/
theorem modifyWordAlone : Obligations.ModifyWordAlone := by
  intro o s
  refine ⟨?dinc, ?ddec, ?shl, ?shlc, ?shr, ?shrc, ?inc, ?incc, ?dec, ?decc, ?keepsCF⟩
  case keepsCF => exact modifiesWord_rmwWord (out := execDecWKeep s) rfl
  all_goals exact modifiesWord_rmwWord rfl

end Sys2Proof.Machine
end

section
/-! PROOFS. The interrupt taken at a step boundary: the first pending cause, entered at its vector. -/

namespace Sys2Proof.Machine

/-! ## The order of the causes (R404, R406, D20) -/

theorem pendingCause_int0 {s : State} (int0 : s.int0 = true) : pendingCause s = some 0 := if_pos int0

theorem pendingCause_accessError {s : State} (int0 : s.int0 = false) (error : accessError s = true) :
    pendingCause s = some 1 := by
  rw [pendingCause, int0, error]; rfl

theorem pendingCause_int1 {s : State} (int0 : s.int0 = false) (error : accessError s = false) (int1 : s.int1 = true) :
    pendingCause s = some 15 := by
  rw [pendingCause, int0, error, int1]; rfl

/-! ## The boundary (R101 step 1, R405, R408) -/

/-- The requests of a boundary set latches only: no prefix comes or goes (R403). -/
theorem nonePending_takeRequests (s : State) : NonePending (takeRequests s) ↔ NonePending s := by
  simp [NonePending]

/-- With interrupts enabled, none running and no prefix pending, the first pending cause is the one taken (R406). -/
theorem takenCause_eq_pendingCause {s : State} (enabled : s.ef = true) (outside : s.inInt = false)
    (noPrefix : NonePending s) : takenCause s = pendingCause s := by
  rw [takenCause, enabled, outside, prefixPending_eq_false.mpr noPrefix]; rfl

/-- A step that takes cause `k` enters it at its vector and does nothing else. -/
theorem step_eq_entry {s : State} {k : BitVec 4} (wf : s.cfg.wf = true) (taken : takenCause (takeRequests s) = some k) :
    step s = .next { takeRequests s with inInt := true, ic := BitVec.ofNat 17 (k.toNat * 2 + 32) } := by
  have wf' : (takeRequests s).cfg.wf = true := by rwa [takeRequests_cfg]
  rw [← enterInterrupt_eq k wf']
  simp only [step, cycle, taken]

/-- Settles O15: the cause taken is the first pending one, by `takenCause_eq_pendingCause`, and the vectors of the causes 0, 1
and 15 are 32, 34 and 62. -/
theorem interruptEntryByPriority : Obligations.InterruptEntryByPriority := by
  rintro s u rfl wf enabled outside noPrefix
  have enters {k : BitVec 4} (first : pendingCause (takeRequests s) = some k) :
      step s = .next { takeRequests s with inInt := true, ic := BitVec.ofNat 17 (k.toNat * 2 + 32) } := by
    refine step_eq_entry wf ((takenCause_eq_pendingCause ?_ ?_ ((nonePending_takeRequests s).mpr noPrefix)).trans first)
    · rwa [takeRequests_ef]
    · rwa [takeRequests_inInt]
  refine ⟨fun int0 => ?int0, fun int0 userMode ae => ?accessError, fun int0 error int1 => ?int1⟩
  case int0 => exact enters (pendingCause_int0 int0)
  case accessError => exact enters (pendingCause_accessError int0 (by rw [accessError, userMode, ae]; rfl))
  case int1 => exact enters (pendingCause_int1 int0 error int1)

end Sys2Proof.Machine
end
